-- ==== Sys2Proof/Word.lean ====
section
/-! DEFINITION. The word types of AArch32 as the spec uses them, and the three closed sets of names that both the
syntax and the state speak of: instruction set states, conditions, modes. -/

namespace Sys2Proof

/-- 8 bits (20_memory.md R51, D2). -/
abbrev Byte := BitVec 8

/-- 16 bits: the unit of a T32 fetch (30_encoding.md R80, R88). -/
abbrev Halfword := BitVec 16

/-- 32 bits: registers, addresses, instruction words, the stored datum (20_memory.md R51). -/
abbrev Word := BitVec 32

/-- The number `n = UInt(Rn)` of a general-purpose register, 0 to 15; 15 is the PC (10_state.md R20). -/
abbrev RegNum := Fin 16

/-- The instruction set state (10_state.md R26). `InstrSet_A64` never occurs (D30). -/
inductive InstrSet where
  | a32
  | t32
  deriving DecidableEq, Repr

/-- The sixteen rows of the condition table of 10_state.md R28, in its order (0000 to 1111). `nv` is the row 1111,
which has no suffix and is no condition of an A1 encoding (30_encoding.md R90). -/
inductive Cond where
  | eq | ne | cs | cc | mi | pl | vs | vc | hi | ls | ge | lt | gt | le | al | nv
  deriving DecidableEq, Repr

/-- The set `Mode` of 10_state.md R32, which contains `Hyp`. PRESUMED: the other names are those of G17; no rule
depends on them (log 21). -/
inductive Mode where
  | user | fiq | irq | supervisor | monitor | abort | hyp | undefined | system
  deriving DecidableEq, Repr

end Sys2Proof
end

