-- ==== Sys2Proof/Syntax.lean ====
section
/-! DEFINITION. The instructions: one constructor per row of spec/opcode_table.json (30_encoding.md R86). The bits P
and W are what tells the rows of a class apart (R84), so they are not operands. -/

namespace Sys2Proof

/-- The ten patterns of 30_encoding.md R86. `u` is the U bit (true adds the offset), `rn` the base register number,
`imm8` the offset divided by 4; in the Unindexed rows `option` is the ignored field `<option>` (R102). -/
inductive Instr where
  /-- `STC{<c>}{<q>} p14, c5, [<Rn>{, #<sign><imm>}]` in A32 (R125). -/
  | stcA1Off (cond : Cond) (u : Bool) (rn : RegNum) (imm8 : Byte)
  /-- `STC{<c>}{<q>} p14, c5, [<Rn>], #<sign><imm>` in A32 (R126). -/
  | stcA1Post (cond : Cond) (u : Bool) (rn : RegNum) (imm8 : Byte)
  /-- `STC{<c>}{<q>} p14, c5, [<Rn>, #<sign><imm>]!` in A32 (R127). -/
  | stcA1Pre (cond : Cond) (u : Bool) (rn : RegNum) (imm8 : Byte)
  /-- `STC{<c>}{<q>} p14, c5, [<Rn>], <option>` in A32 (R128). -/
  | stcA1Unind (cond : Cond) (rn : RegNum) (option : Byte)
  /-- The A1 pattern with P = U = W = 0, which has no assembler syntax (R133). -/
  | stcA1Undefined (cond : Cond) (rn : RegNum) (imm8 : Byte)
  /-- The Offset form in T32 (R129). -/
  | stcT1Off (u : Bool) (rn : RegNum) (imm8 : Byte)
  /-- The Post-indexed form in T32 (R130). -/
  | stcT1Post (u : Bool) (rn : RegNum) (imm8 : Byte)
  /-- The Pre-indexed form in T32 (R131). -/
  | stcT1Pre (u : Bool) (rn : RegNum) (imm8 : Byte)
  /-- The Unindexed form in T32 (R132). -/
  | stcT1Unind (rn : RegNum) (option : Byte)
  /-- The T1 pattern with P = U = W = 0 (R134). -/
  | stcT1Undefined (rn : RegNum) (imm8 : Byte)
  deriving DecidableEq, Repr

end Sys2Proof
end

