-- ==== Sys2Proof/WellFormed.lean ====
section
/-! DEFINITION. Which terms of `Instr` an encoding stands for. The operand types leave one check: the A1 diagram
constrains `cond` to be different from 1111 (30_encoding.md R81, R90). -/

namespace Sys2Proof

/-- The A1 constraint `cond != 1111`; T1 has no `cond` field. -/
def Instr.wf : Instr → Bool
  | .stcA1Off cond _ _ _ => cond != .nv
  | .stcA1Post cond _ _ _ => cond != .nv
  | .stcA1Pre cond _ _ _ => cond != .nv
  | .stcA1Unind cond _ _ => cond != .nv
  | .stcA1Undefined cond _ _ => cond != .nv
  | .stcT1Off _ _ _ => true
  | .stcT1Post _ _ _ => true
  | .stcT1Pre _ _ _ => true
  | .stcT1Unind _ _ => true
  | .stcT1Undefined _ _ => true

/-- The instruction set an encoding belongs to: class A1 is A32, class T1 is T32 (00_scope.md R1). -/
def Instr.iset : Instr → InstrSet
  | .stcA1Off _ _ _ _ => .a32
  | .stcA1Post _ _ _ _ => .a32
  | .stcA1Pre _ _ _ _ => .a32
  | .stcA1Unind _ _ _ => .a32
  | .stcA1Undefined _ _ _ => .a32
  | .stcT1Off _ _ _ => .t32
  | .stcT1Post _ _ _ => .t32
  | .stcT1Pre _ _ _ => .t32
  | .stcT1Unind _ _ => .t32
  | .stcT1Undefined _ _ => .t32

end Sys2Proof
end

