-- ==== Sys2Proof/Decode.lean ====
section
/-! DEFINITION. The decoder (30_encoding.md R84 to R91), total on any bytes and rejecting by name, then the encoder,
written from the diagrams R81 and R82, and `decodeTableWord`. -/

namespace Sys2Proof

/-- The condition with a given 4-bit code: the rows of 10_state.md R28. -/
def Cond.ofBits (b : BitVec 4) : Cond :=
  match b.toNat with
  | 0 => .eq | 1 => .ne | 2 => .cs | 3 => .cc | 4 => .mi | 5 => .pl | 6 => .vs | 7 => .vc
  | 8 => .hi | 9 => .ls | 10 => .ge | 11 => .lt | 12 => .gt | 13 => .le | 14 => .al | _ => .nv

/-- The 4-bit code of a condition (10_state.md R28). -/
def Cond.toBits : Cond → BitVec 4
  | .eq => 0b0000#4 | .ne => 0b0001#4 | .cs => 0b0010#4 | .cc => 0b0011#4
  | .mi => 0b0100#4 | .pl => 0b0101#4 | .vs => 0b0110#4 | .vc => 0b0111#4
  | .hi => 0b1000#4 | .ls => 0b1001#4 | .ge => 0b1010#4 | .lt => 0b1011#4
  | .gt => 0b1100#4 | .le => 0b1101#4 | .al => 0b1110#4 | .nv => 0b1111#4

/-- Bits `cond` of an A32 word (R81). -/
def wordCond (w : Word) : BitVec 4 := w.extractLsb' 28 4

/-- Bit `P` (R81, R82). -/
def wordP (w : Word) : Bool := w.getLsbD 24

/-- Bit `U` (R81, R82). -/
def wordU (w : Word) : Bool := w.getLsbD 23

/-- Bit `W` (R81, R82). -/
def wordW (w : Word) : Bool := w.getLsbD 21

/-- Field `Rn` (R81, R82). -/
def wordRn (w : Word) : RegNum := (w.extractLsb' 16 4).toFin

/-- Field `imm8` (R81, R82). -/
def wordImm8 (w : Word) : Byte := w.extractLsb' 0 8

/-- The row of R84 that P, U and W select in class A1. -/
def rowA1 (cond : Cond) (p u w : Bool) (rn : RegNum) (imm8 : Byte) : Instr :=
  match p, u, w with
  | true, _, false => .stcA1Off cond u rn imm8
  | false, _, true => .stcA1Post cond u rn imm8
  | true, _, true => .stcA1Pre cond u rn imm8
  | false, true, false => .stcA1Unind cond rn imm8
  | false, false, false => .stcA1Undefined cond rn imm8

/-- The row of R84 that P, U and W select in class T1. -/
def rowT1 (p u w : Bool) (rn : RegNum) (imm8 : Byte) : Instr :=
  match p, u, w with
  | true, _, false => .stcT1Off u rn imm8
  | false, _, true => .stcT1Post u rn imm8
  | true, _, true => .stcT1Pre u rn imm8
  | false, true, false => .stcT1Unind rn imm8
  | false, false, false => .stcT1Undefined rn imm8

/-- R86: the word belongs to class A1. -/
def isClassA1 (w : Word) : Bool :=
  w &&& 0x0E50FF00#32 == 0x0C005E00#32 && wordCond w != 0b1111#4

/-- R86: the word `hw1 : hw2` belongs to class T1. -/
def isClassT1 (w : Word) : Bool :=
  w &&& 0xFE50FF00#32 == 0xEC005E00#32

/-- R87: decoding in A32 state; `none` is "not STC". -/
def decodeA1 (w : Word) : Option Instr :=
  if isClassA1 w then
    some (rowA1 (Cond.ofBits (wordCond w)) (wordP w) (wordU w) (wordW w) (wordRn w) (wordImm8 w))
  else none

/-- R88: decoding `hw1 : hw2` in T32 state; `none` is "not STC". -/
def decodeT1 (w : Word) : Option Instr :=
  if isClassT1 w then
    some (rowT1 (wordP w) (wordU w) (wordW w) (wordRn w) (wordImm8 w))
  else none

/-- The decoder that `iset` selects (10_state.md R26). -/
def decodeWord (iset : InstrSet) (w : Word) : Option Instr :=
  match iset with
  | .a32 => decodeA1 w
  | .t32 => decodeT1 w

/-- Why bytes give no instruction. -/
inductive DecodeReject where
  /-- The word, or the 16-bit T32 instruction, is not an STC (30_encoding.md R87, R88, R90, R91). -/
  | notSTC
  /-- The bytes end before the instruction does. -/
  | truncated
  deriving DecidableEq, Repr

/-- R88, D29: a halfword whose bits 15:11 are 11101, 11110 or 11111 is the first half of a 32-bit instruction. -/
def firstOf32 (hw : Halfword) : Bool :=
  let top := hw.extractLsb' 11 5
  top == 0b11101#5 || top == 0b11110#5 || top == 0b11111#5

/-- Four bytes as a word, the least significant first. -/
def joinBytes (b0 b1 b2 b3 : Byte) : Word :=
  b3.setWidth 32 <<< 24 ||| b2.setWidth 32 <<< 16 ||| b1.setWidth 32 <<< 8 ||| b0.setWidth 32

/-- Two bytes as a halfword, the least significant first. -/
def joinHalfword (b0 b1 : Byte) : Halfword :=
  b1.setWidth 16 <<< 8 ||| b0.setWidth 16

/-- The instruction at the head of a list of bytes (lowest address first), with the bytes after it. 20_memory.md R55:
an A32 word is little-endian; a T32 instruction is two little-endian halfwords, the first holding bits 31:16. -/
def decodeBytes (iset : InstrSet) (bytes : List Byte) : Except DecodeReject (Instr × List Byte) :=
  match iset, bytes with
  | .a32, b0 :: b1 :: b2 :: b3 :: rest =>
    match decodeA1 (joinBytes b0 b1 b2 b3) with
    | some i => .ok (i, rest)
    | none => .error .notSTC
  | .a32, _ => .error .truncated
  | .t32, b0 :: b1 :: more =>
    if firstOf32 (joinHalfword b0 b1) then
      match more with
      | b2 :: b3 :: rest =>
        match decodeT1 (joinBytes b2 b3 b0 b1) with
        | some i => .ok (i, rest)
        | none => .error .notSTC
      | _ => .error .truncated
    else .error .notSTC
  | .t32, _ => .error .truncated

/-! ### The encoder -/

/-- The diagrams R81 and R82, which differ only in bits 31:28 (`cond` in A1, 1110 in T1): the constant bits of the
class, with each variable field at its place. -/
def packWord (top : BitVec 4) (p u w : Bool) (rn : RegNum) (imm8 : Byte) : Word :=
  0x0C005E00#32 ||| top.setWidth 32 <<< 28 ||| (BitVec.ofBool p).setWidth 32 <<< 24
    ||| (BitVec.ofBool u).setWidth 32 <<< 23 ||| (BitVec.ofBool w).setWidth 32 <<< 21
    ||| (BitVec.ofNat 4 rn.val).setWidth 32 <<< 16 ||| imm8.setWidth 32

/-- The word of an instruction: `w` in A32, `hw1 : hw2` in T32. It is also what `ThisInstr()` gives (00_scope.md
R17). -/
def encode : Instr → Word
  | .stcA1Off cond u rn imm8 => packWord cond.toBits true u false rn imm8
  | .stcA1Post cond u rn imm8 => packWord cond.toBits false u true rn imm8
  | .stcA1Pre cond u rn imm8 => packWord cond.toBits true u true rn imm8
  | .stcA1Unind cond rn imm8 => packWord cond.toBits false true false rn imm8
  | .stcA1Undefined cond rn imm8 => packWord cond.toBits false false false rn imm8
  | .stcT1Off u rn imm8 => packWord 0b1110#4 true u false rn imm8
  | .stcT1Post u rn imm8 => packWord 0b1110#4 false u true rn imm8
  | .stcT1Pre u rn imm8 => packWord 0b1110#4 true u true rn imm8
  | .stcT1Unind rn imm8 => packWord 0b1110#4 false true false rn imm8
  | .stcT1Undefined rn imm8 => packWord 0b1110#4 false false false rn imm8

/-- The four bytes of an instruction word as memory holds them, lowest address first (20_memory.md R55). -/
def wordToBytes (iset : InstrSet) (w : Word) : List Byte :=
  match iset with
  | .a32 => [w.extractLsb' 0 8, w.extractLsb' 8 8, w.extractLsb' 16 8, w.extractLsb' 24 8]
  | .t32 => [w.extractLsb' 16 8, w.extractLsb' 24 8, w.extractLsb' 0 8, w.extractLsb' 8 8]

/-! ### The table's words

spec/opcode_table.json numbers a row's 32 bits as the diagrams do: bit 31 is the top bit of the A32 word and, in T32,
of the FIRST halfword. A word whose bits 31:28 are 1110 can be an A1 word (condition AL) and a T1 word at once; the T1
rows fix these four bits and the A1 rows do not, so such a word is read as T1 (log 9). -/

/-- The instruction set in which a table word is read (log 9). -/
def tableISet (w : Word) : InstrSet :=
  if isClassT1 w then .t32 else .a32

/-- The instruction the decoder reads from a table row's word, laid out as the hardware stores it. -/
def decodeTableWord (nbits w : Nat) : Option Instr :=
  if nbits ≤ 32 ∧ w < 2 ^ 32 then
    let word := BitVec.ofNat 32 w
    match decodeBytes (tableISet word) (wordToBytes (tableISet word) word) with
    | .ok (i, _) => some i
    | .error _ => none
  else none

end Sys2Proof
end

