-- ==== Sys2Proof/Config.lean ====
section
/-! DEFINITION. The parameters of 00_scope.md R6 as plain data, and the free values. The spec makes the parameters
arguments of the step; the step here has no argument but the state, so State carries one `Params` that no step writes
(log 2). The free values have no body: nothing can be proved about which value they give (log 4, log 5). -/

namespace Sys2Proof

/-- `CU_STC_PC`: what a CONSTRAINED UNPREDICTABLE STC does (40_stc.md R141, R142, D15). -/
inductive CuStcPc where
  | refuse
  | undef
  | nop
  | wbsuppress
  | wbToPc
  deriving DecidableEq, Repr

/-- `CondFailPolicy`: what an UNDEFINED, trapped, not permitted or unpredictable STC does when its condition fails
(40_stc.md R135, D14). -/
inductive CondFailPolicy where
  | nop
  | either
  deriving DecidableEq, Repr

/-- `DccModel`: whether a read of DBGDTRRXint has the full/empty side effect (10_state.md R31, D4). -/
inductive DccModel where
  | rxfull
  | plain
  deriving DecidableEq, Repr

/-- An OPEN parameter that is a predicate of the state (R6, D16, D17). `const b` answers `b` in every state; `free` is
a predicate of which nothing is known (log 3). -/
inductive OpenPredicate where
  | const (answer : Bool)
  | free
  deriving DecidableEq, Repr

/-- A range of byte addresses `base .. base + size - 1`; of size 0 it holds no address (log 30). -/
structure Region where
  base : Nat
  size : Nat
  deriving DecidableEq, Repr

/-- The OPEN parameter `MemAdmit` (R6, D8): the platform aborts a store that touches a listed region, or, `free`, it
aborts stores by a rule of which nothing is known (log 3). A store touches a region when one of its bytes lies in it
(DESIGN CHOICE, log 30). -/
inductive MemAdmit where
  | aborts (regions : List Region)
  | free
  deriving DecidableEq, Repr

/-- The parameters of 00_scope.md R6 but for `Program`, `Base` and `End`, which State holds itself. -/
structure Params where
  haveEL2 : Bool
  hypTrapDebug : OpenPredicate
  sysRegPermitted : OpenPredicate
  cuStcPc : CuStcPc
  condFailPolicy : CondFailPolicy
  dccModel : DccModel
  bigEndData : Bool
  memAdmit : MemAdmit
  deriving DecidableEq, Repr

/-- The defaults of R6 and 92_eei_decisions.md section 6; for the four OPEN parameters, which have no default, the
defaults under which 95_test_vectors.md states its vectors (DESIGN CHOICE, log 6). -/
def Params.default : Params where
  haveEL2 := false
  hypTrapDebug := .const false
  sysRegPermitted := .const true
  cuStcPc := .refuse
  condFailPolicy := .either
  dccModel := .rxfull
  bigEndData := false
  memAdmit := .aborts []

/-- The draw of 40_stc.md R122: the word an STC reads from DBGDTRRXint while RXfull is 0, a fresh one for each count
of draws (U10, D4; log 4). -/
opaque Config.dtrrxDraw : Nat → Word

/-- The choice `CondFailPolicy = either` leaves open (40_stc.md R145 step 4, D14): true continues as if the condition
had passed, false does nothing; fresh for each count of draws (log 5). -/
opaque Config.condFailDraw : Nat → Bool

end Sys2Proof
end

