-- ==== Sys2Proof/Machine/State.lean ====
section
/-! DEFINITION. The state of the machine (10_state.md R38), the reasons a step stops, and the state the model calls
reset. `State` is plain data. -/

namespace Sys2Proof.Machine

/-- The two kinds of DataAbort (60_exceptions.md R162). -/
inductive AbortKind where
  | alignment
  | platform
  deriving DecidableEq, Repr

/-- The exceptions an STC can raise (60_exceptions.md R160), with the values R164 records: the instruction word and
`pc`, and for DataAbort the kind and the address. The spec's machine enters no handler: a fault is terminal (R168). -/
inductive Fault where
  /-- R161: the UNDEFINED bit pattern, an access that is not permitted, or `CU_STC_PC = undef`. Raised by the ten
  meanings through `stc`. Safe: nothing is proved past it. -/
  | undefinedInstruction (instr pc : Word)
  /-- R163, R144: the trap to Hyp mode. Raised by the eight STC meanings. Safe: nothing is proved past it. -/
  | hypTrap (instr pc : Word)
  /-- R162: the store is misaligned (R56) or the platform aborts it (R61). Raised by `memWrite`. Safe: nothing is
  proved past it. -/
  | dataAbort (kind : AbortKind) (address instr pc : Word)
  deriving DecidableEq, Repr

/-- The two CONSTRAINED UNPREDICTABLE cases (40_stc.md R141, R142). -/
inductive UnpredictableCase where
  | a1PcWriteback
  | t1PcBase
  deriving DecidableEq, Repr

/-- Why a step has no next state although no exception is raised (40_stc.md R145). -/
inductive Refusal where
  /-- No meaning yet: `exec` alone answers it. Safe. -/
  | notModelled (mnemonic : String)
  /-- R90, R91, D23: the fetched word is not an STC. Raised by `fetch`. Safe: the spec refuses it too. -/
  | notSTC
  /-- R141, R142, D15: base register 15 under `CU_STC_PC = refuse` or a setting the spec does not define for the
  class. Raised by `stcUnpredictable`. Safe: the spec refuses it too. -/
  | unpredictable (case : UnpredictableCase)
  /-- R53 step 3, R65: the stored bytes touch the program. Raised by `memWrite`. Safe: the spec refuses it too. -/
  | storeIntoProgram
  /-- R59: `pc`, or the second half of a T32 instruction, lies outside the program. Raised by `fetch`. Safe: the spec
  refuses it too. -/
  | fetchOutsideProgram
  /-- R25: `pc` is not aligned for `iset`. Raised by `fetch`. Safe: the spec refuses it too. -/
  | misalignedPC
  /-- R25: `pc + 4` exceeds 0xFFFFFFFF. Raised by `advance`. Safe: the spec refuses it too. -/
  | pcWrap
  /-- R34: a T32 launch state inside an IT block whose condition is 1111. Raised by `fetch`. Safe: the spec refuses it
  too, and gives the refusal no name (log 16). -/
  | launchITSTATE
  /-- R193: `pc == End` with no mark. The run is complete and the PE takes no step; nothing went wrong. Raised by
  `halted`. Safe: the spec gives no step there either (log 10). -/
  | runEnded
  deriving DecidableEq, Repr

/-- Memory as (address, byte) pairs, addresses strictly rising (`Memory.wf`). An address with no pair holds a byte of
which nothing is known (R40; log 20). -/
abbrev Memory := List Host.Cell

/-- Who moves next (60_exceptions.md R175): the PE, or the host with `HostWrite(v)` (log 7). -/
inductive Turn where
  | pe
  | hostWrite (v : Word)
  deriving DecidableEq, Repr

/-- The state of 10_state.md R38, in its order, then the arguments of the step relation that R37 lists (`program`,
`base`, `params`) and the model's own two fields. -/
structure State where
  /-- R20: `x[0]` to `x[14]`. -/
  x : Vector Word 15
  /-- R23. -/
  pc : Word
  /-- R26. -/
  iset : InstrSet
  /-- R27. -/
  flagN : Bool
  /-- R27. -/
  flagZ : Bool
  /-- R27. -/
  flagC : Bool
  /-- R27. -/
  flagV : Bool
  /-- R34. -/
  itstate : BitVec 8
  /-- R29: CPSR.DIT. -/
  dit : Bool
  /-- R30: DBGDTRRXint. -/
  dtrrx : Word
  /-- R31. -/
  rxfull : Bool
  /-- R32. -/
  mode : Mode
  /-- R32. -/
  nonsecure : Bool
  /-- R35: data memory. -/
  mem : Memory
  /-- R37: the fault mark. -/
  fault : Option Fault
  /-- R37: the refusal mark. -/
  refused : Option Refusal
  /-- R59: `Program`, the instruction words (`hw1 : hw2` in T32). -/
  program : List Word
  /-- R59: `Base`. -/
  base : Word
  /-- R6: the parameters. -/
  params : Params
  /-- R175: the turns to come; when it is empty the PE moves (log 7). -/
  schedule : List Turn
  /-- How many free values the run has taken (log 4, log 5). -/
  draws : Nat
  deriving DecidableEq, Repr

/-! ### Updates of one field -/

/-- Replace the register file. -/
def State.withX (s : State) (v : Vector Word 15) : State := { s with x := v }

/-- Replace `pc`. -/
def State.withPc (s : State) (v : Word) : State := { s with pc := v }

/-- Replace ITSTATE. -/
def State.withItstate (s : State) (v : BitVec 8) : State := { s with itstate := v }

/-- Replace DBGDTRRXint. -/
def State.withDtrrx (s : State) (v : Word) : State := { s with dtrrx := v }

/-- Replace RXfull. -/
def State.withRxfull (s : State) (v : Bool) : State := { s with rxfull := v }

/-- Replace memory. -/
def State.withMem (s : State) (v : Memory) : State := { s with mem := v }

/-- Replace the fault mark. -/
def State.withFault (s : State) (v : Option Fault) : State := { s with fault := v }

/-- Replace the refusal mark. -/
def State.withRefused (s : State) (v : Option Refusal) : State := { s with refused := v }

/-- Replace the turns to come. -/
def State.withSchedule (s : State) (v : List Turn) : State := { s with schedule := v }

/-- Replace the count of free values taken. -/
def State.withDraws (s : State) (v : Nat) : State := { s with draws := v }

/-- The state the model starts from. The spec states no reset value for anything (10_state.md R40, 70 R190); these are
the launch defaults of 95_test_vectors.md sections V and P where it has one (A32, `Base = pc = 0x00008000`, registers,
flags and ITSTATE 0, R6's defaults), else zero, and for `mode` and `nonsecure` the family's (log 6). Nothing stands in
the program: a launch places it (log 8). -/
def State.reset : State where
  x := Vector.replicate 15 0#32
  pc := 0x00008000#32
  iset := .a32
  flagN := false
  flagZ := false
  flagC := false
  flagV := false
  itstate := 0#8
  dit := false
  dtrrx := 0#32
  rxfull := false
  mode := .supervisor
  nonsecure := false
  mem := []
  fault := none
  refused := none
  program := []
  base := 0x00008000#32
  params := Params.default
  schedule := []
  draws := 0

end Sys2Proof.Machine
end

