-- ==== Sys2Proof/Machine/Ops.lean ====
section
/-! DEFINITION. The named operations over memory, registers, DBGDTRRXint and the program, raising an exception, and the
predicates of 00_scope.md R6. -/

namespace Sys2Proof.Config

/-- `SysRegPermitted` when nothing is known of it (R33, D16; log 3). -/
opaque freePermitted : Machine.State → Bool

/-- `HypTrapDebug` when nothing is known of it (R33, D17; log 3). -/
opaque freeHypTrap : Machine.State → Bool

/-- `MemAdmit` answering `abort`, when nothing is known of it (R61, D8; log 3). -/
opaque freeAborts : Machine.State → Word → Nat → Bool

end Sys2Proof.Config

namespace Sys2Proof.Machine

/-- What a step answers. -/
abbrev Outcome := Host.Outcome State Fault Refusal

/-- Continue from a next state; a fault or a refusal ends the step with none of its effects (40_stc.md R124). -/
def andThen (o : Outcome) (k : State → Outcome) : Outcome :=
  match o with
  | .next s => k s
  | .fault f => .fault f
  | .refused r => .refused r

/-- Taking an exception, for every exception there is (60_exceptions.md R168, R164): the step is a fault that records
`pc`; nothing else changes and no handler is entered (D18). `mk` is the exception with all it records but `pc`. -/
def raise (mk : Word → Fault) (s : State) : Outcome :=
  .fault (mk s.pc)

/-- The state an outcome leaves (10_state.md R37): after a fault or a refusal, the state before with the mark set. -/
def settle (s : State) (o : Outcome) : State :=
  match o with
  | .next t => t
  | .fault f => s.withFault (some f)
  | .refused r => s.withRefused (some r)

/-! ### Memory (20_memory.md) -/

/-- The byte at an address; `none` is a byte of which nothing is known. -/
def Memory.read (m : Memory) (a : Nat) : Option Byte :=
  match m with
  | [] => none
  | (k, b) :: rest => if a = k then some b else Memory.read rest a

/-- Set the byte at an address, keeping addresses rising. -/
def Memory.write (m : Memory) (a : Nat) (v : Byte) : Memory :=
  match m with
  | [] => [(a, v)]
  | (k, b) :: rest =>
    if a < k then (a, v) :: (k, b) :: rest
    else if a = k then (a, v) :: rest
    else (k, b) :: Memory.write rest a v

/-- Set consecutive bytes, the first at `a`. -/
def Memory.writeBytes (m : Memory) (a : Nat) (bytes : List Byte) : Memory :=
  match bytes with
  | [] => m
  | b :: rest => Memory.writeBytes (Memory.write m a b) (a + 1) rest

/-- Addresses rise strictly from `lo` and stay below 2^32. -/
def Memory.risesFrom (lo : Nat) (m : Memory) : Bool :=
  match m with
  | [] => true
  | (a, _) :: rest => decide (lo ≤ a) && decide (a < 2 ^ 32) && Memory.risesFrom (a + 1) rest

/-- The canonical form: addresses strictly rising, inside the 32-bit address space (R50). -/
def Memory.wf (m : Memory) : Bool :=
  Memory.risesFrom 0 m

/-- R53 step 4, R54: the four bytes of a stored word, lowest address first. -/
def wordBytes (bigEnd : Bool) (v : Word) : List Byte :=
  let little := [v.extractLsb' 0 8, v.extractLsb' 8 8, v.extractLsb' 16 8, v.extractLsb' 24 8]
  if bigEnd then little.reverse else little

/-! ### The program (20_memory.md R59, R65) -/

/-- `End = Base + 4 * length(Program)`. -/
def State.progEnd (s : State) : Nat :=
  s.base.toNat + 4 * s.program.length

/-- The byte of the program at an address (R55), `none` outside `[Base, End)`. -/
def programByte (s : State) (a : Nat) : Option Byte :=
  if s.base.toNat ≤ a then
    match s.program[(a - s.base.toNat) / 4]? with
    | some w => (wordToBytes s.iset w)[(a - s.base.toNat) % 4]?
    | none => none
  else none

/-- Up to `n` bytes of the program from address `a`, ending where the program ends. -/
def programBytes (s : State) (a : Nat) (n : Nat) : List Byte :=
  match n with
  | 0 => []
  | k + 1 =>
    match programByte s a with
    | some b => b :: programBytes s (a + 1) k
    | none => []

/-- The byte the machine holds at an address: the program's inside `[Base, End)` (R59: the launch places it there),
data memory's elsewhere. -/
def State.readByte (s : State) (a : Nat) : Option Byte :=
  match programByte s a with
  | some b => some b
  | none => s.mem.read a

/-- R53 step 3: some of the four bytes at `addr` lies in `[Base, End)`. -/
def touchesProgram (s : State) (addr : Word) : Bool :=
  decide (s.base.toNat < addr.toNat + 4) && decide (addr.toNat < s.progEnd)
    && decide (0 < s.program.length)

/-! ### Registers (10_state.md) -/

/-- Read `x[n]` (R12, R20); `x[15]` is `pc + 8` (R22, D11; log 14). In T32 no rule reads `x[15]`. -/
def readReg (s : State) (n : RegNum) : Word :=
  if h : n.val < 15 then s.x[n.val] else s.pc + 8#32

/-- Write `x[n]` for n below 15 (R12). No rule writes `x[15]`: R141 and R142 refuse it, and so nothing is written. -/
def writeReg (s : State) (n : RegNum) (v : Word) : State :=
  if h : n.val < 15 then s.withX (s.x.set n.val v) else s

/-! ### The predicates of 00_scope.md R6 -/

/-- What a free predicate may look at: the state the spec gives the machine, but for CPSR.DIT, on which no fault
depends (40_stc.md R146). The model's own two fields are hidden as well (log 25). -/
def State.seen (s : State) : State :=
  { s with draws := 0, schedule := [], dit := false }

/-- What a free `MemAdmit` may look at: not the data being stored (20_memory.md R61; log 25). -/
def State.seenByPlatform (s : State) : State :=
  { s.seen with dtrrx := 0#32, rxfull := false }

/-- `SysRegPermitted(state)` (R33, 40_stc.md R143). -/
def sysRegPermitted (s : State) : Bool :=
  match s.params.sysRegPermitted with
  | .const b => b
  | .free => Config.freePermitted s.seen

/-- `HypTrapDebug(state)` (R33, 40_stc.md R144). -/
def hypTrapDebug (s : State) : Bool :=
  match s.params.hypTrapDebug with
  | .const b => b
  | .free => Config.freeHypTrap s.seen

/-- The trap of 40_stc.md R144. -/
def hypTrapped (s : State) : Bool :=
  s.params.haveEL2 && s.nonsecure && s.mode != .hyp && sysRegPermitted s && hypTrapDebug s

/-- Byte address `a` lies in the region. A region of size 0 holds no byte. -/
def Region.covers (r : Region) (a : Nat) : Bool :=
  decide (r.base ≤ a) && decide (a < r.base + r.size)

/-- `MemAdmit(state, addr, size)` answers `abort` (20_memory.md R61). DESIGN CHOICE (log 30): the spec leaves the
predicate OPEN (D8), and with a list of regions the model aborts exactly when one of the `size` bytes from `addr` lies
in a listed region, so that a region of size 0, which holds no byte, aborts nothing wherever it stands. -/
def memAborts (s : State) (addr : Word) (size : Nat) : Bool :=
  match s.params.memAdmit with
  | .aborts regions =>
    regions.any fun r => (List.range size).any fun k => Region.covers r (addr.toNat + k)
  | .free => Config.freeAborts s.seenByPlatform addr size

/-! ### DBGDTRRXint and the store (40_stc.md R122, 20_memory.md R53) -/

/-- `ReadDBGDTRRXint()` (R122, 10_state.md R31): the value read, and the state after the read. -/
def readDtrrx (s : State) : Word × State :=
  match s.params.dccModel with
  | .plain => (s.dtrrx, s)
  | .rxfull =>
    if s.rxfull then (s.dtrrx, s.withRxfull false)
    else (Config.dtrrxDraw s.draws, s.withDraws (s.draws + 1))

/-- `MemWrite(addr, 4, v)` (R53), its four steps in order; `instr` is for the fault's record (R164). -/
def memWrite (instr addr v : Word) (s : State) : Outcome :=
  if addr.extractLsb' 0 2 ≠ 0#2 then raise (.dataAbort .alignment addr instr) s
  else if memAborts s addr 4 then raise (.dataAbort .platform addr instr) s
  else if touchesProgram s addr then .refused .storeIntoProgram
  else .next (s.withMem (s.mem.writeBytes addr.toNat (wordBytes s.params.bigEndData v)))

/-! ### Turns and marks -/

/-- The host's one move (60_exceptions.md R175). -/
def hostWrite (v : Word) (s : State) : State :=
  (s.withDtrrx v).withRxfull true

/-- Who moves next; with no turn left the PE does (log 7). -/
def nextTurn (s : State) : Turn :=
  match s.schedule with
  | [] => .pe
  | t :: _ => t

/-- The state once the next turn has been given out. -/
def takeTurn (s : State) : State :=
  s.withSchedule s.schedule.tail

/-- The states from which no agent moves: a marked one (10_state.md R37) and the end of the run (70 R193). -/
def halted (s : State) : Option Outcome :=
  match s.fault, s.refused with
  | some f, _ => some (.fault f)
  | none, some r => some (.refused r)
  | none, none => if s.pc.toNat = s.progEnd then some (.refused .runEnded) else none

end Sys2Proof.Machine
end

