-- ==== Sys2Proof/Machine/Flags.lean ====
section
/-! DEFINITION. The condition check (10_state.md R28), ITSTATE (R34) and the advance of the PC (R24, R25). STC computes
no flag (40_stc.md R136): these are all the uses of the flags there are. -/

namespace Sys2Proof.Machine

/-- The table of R28. -/
def conditionHolds (cond : Cond) (s : State) : Bool :=
  match cond with
  | .eq => s.flagZ
  | .ne => !s.flagZ
  | .cs => s.flagC
  | .cc => !s.flagC
  | .mi => s.flagN
  | .pl => !s.flagN
  | .vs => s.flagV
  | .vc => !s.flagV
  | .hi => s.flagC && !s.flagZ
  | .ls => !s.flagC || s.flagZ
  | .ge => s.flagN == s.flagV
  | .lt => s.flagN != s.flagV
  | .gt => !s.flagZ && s.flagN == s.flagV
  | .le => s.flagZ || s.flagN != s.flagV
  | .al => true
  | .nv => true

/-- The current condition `cc` of R28: the field `cond` in A32; in T32 ITSTATE[7:4] inside an IT block, else always. -/
def currentCond (cond : Cond) (s : State) : Cond :=
  match s.iset with
  | .a32 => cond
  | .t32 =>
    if s.itstate.extractLsb' 0 4 = 0#4 then .al else Cond.ofBits (s.itstate.extractLsb' 4 4)

/-- `ConditionPassed()` (R28). -/
def conditionPassed (cond : Cond) (s : State) : Bool :=
  conditionHolds (currentCond cond s) s

/-- ITSTATE after a T32 instruction (R34): cleared when ITSTATE[2:0] is 000, else ITSTATE[4:0] moves up by one, its
top bit dropped, and ITSTATE[7:5] stays. -/
def itAdvanced (it : BitVec 8) : BitVec 8 :=
  if it &&& 0b00000111#8 = 0#8 then 0#8 else (it &&& 0b11100000#8) ||| (it <<< 1 &&& 0b00011111#8)

/-- R34: ITSTATE advances in T32 and is not changed in A32. -/
def itAdvance (s : State) : State :=
  match s.iset with
  | .a32 => s
  | .t32 => s.withItstate (itAdvanced s.itstate)

/-- Step 11 of 40_stc.md R145: `pc <- pc + 4`, in T32 with the ITSTATE advance; refused where `pc + 4` would exceed
0xFFFFFFFF (10_state.md R25; log 17). -/
def advance (s : State) : Outcome :=
  if s.pc.toNat + 4 < 2 ^ 32 then .next (itAdvance (s.withPc (s.pc + 4#32)))
  else .refused .pcWrap

end Sys2Proof.Machine
end

