-- ==== Sys2Proof/Machine/Operands.lean ====
section
/-! DEFINITION. The fields of an STC and the decode and operation variables the source computes from them (40_stc.md
R120, R121), for the four addressing forms at once. -/

namespace Sys2Proof.Machine

/-- The variable fields of the diagrams (30_encoding.md R81, R82). A T1 encoding has no `cond`; it stands for 1110
there (R82), and `currentCond` reads ITSTATE in T32. -/
structure Fields where
  cond : Cond
  p : Bool
  u : Bool
  w : Bool
  rn : RegNum
  imm8 : Byte
  deriving DecidableEq, Repr

/-- The fields of an instruction: P, U and W by the row of 30_encoding.md R84. -/
def fieldsOf (i : Instr) : Fields :=
  match i with
  | .stcA1Off cond u rn imm8 => ⟨cond, true, u, false, rn, imm8⟩
  | .stcA1Post cond u rn imm8 => ⟨cond, false, u, true, rn, imm8⟩
  | .stcA1Pre cond u rn imm8 => ⟨cond, true, u, true, rn, imm8⟩
  | .stcA1Unind cond rn imm8 => ⟨cond, false, true, false, rn, imm8⟩
  | .stcA1Undefined cond rn imm8 => ⟨cond, false, false, false, rn, imm8⟩
  | .stcT1Off u rn imm8 => ⟨.al, true, u, false, rn, imm8⟩
  | .stcT1Post u rn imm8 => ⟨.al, false, u, true, rn, imm8⟩
  | .stcT1Pre u rn imm8 => ⟨.al, true, u, true, rn, imm8⟩
  | .stcT1Unind rn imm8 => ⟨.al, false, true, false, rn, imm8⟩
  | .stcT1Undefined rn imm8 => ⟨.al, false, false, false, rn, imm8⟩

/-- `imm32 = ZeroExtend(imm8:'00', 32)` (30_encoding.md R85). -/
def imm32 (imm8 : Byte) : Word :=
  (imm8 ++ 0b00#2).setWidth 32

/-- R120 step 1: the statement UNDEFINED. -/
def isUndefined (f : Fields) : Bool :=
  !f.p && !f.u && !f.w

/-- R120 step 4: the statement UNPREDICTABLE, `n == 15 && (wback || CurrentInstrSet() != InstrSet_A32)`. -/
def isUnpredictable (f : Fields) (s : State) : Bool :=
  f.rn == 15 && (f.w || s.iset != .a32)

/-- `offset_addr = if add then (R[n] + imm32) else (R[n] - imm32)` (R121), modulo 2^32 (R123, R13). -/
def offsetAddr (f : Fields) (s : State) : Word :=
  if f.u then readReg s f.rn + imm32 f.imm8 else readReg s f.rn - imm32 f.imm8

/-- `address = if index then offset_addr else R[n]` (R121). -/
def storeAddr (f : Fields) (s : State) : Word :=
  if f.p then offsetAddr f s else readReg s f.rn

end Sys2Proof.Machine
end

