-- ==== Sys2Proof/Machine/Stc.lean ====
section
/-! DEFINITION. The operation of STC, written once for all ten patterns: steps 2 to 11 of 40_stc.md R145. `instr` is
`ThisInstr()`, which only the fault record uses (60_exceptions.md R164). -/

namespace Sys2Proof.Machine

/-- Steps 9 to 11 of R145: the read of DBGDTRRXint, the store, the writeback (if `wback`) and the advance, in the
source's order (R121, R124). The base register is read once, before the store. -/
def stcTransfer (f : Fields) (instr : Word) (wback : Bool) (s : State) : Outcome :=
  andThen (memWrite instr (storeAddr f s) (readDtrrx s).1 (readDtrrx s).2) fun t =>
    advance (if wback then writeReg t f.rn (offsetAddr f s) else t)

/-- Steps 7 and 8 of R145, the permission (R143) and the trap to Hyp mode (R144), then the transfer. -/
def stcAccess (f : Fields) (instr : Word) (wback : Bool) (s : State) : Outcome :=
  if !sysRegPermitted s then raise (.undefinedInstruction instr) s
  else if hypTrapped s then raise (.hypTrap instr) s
  else stcTransfer f instr wback s

/-- Step 6 of R145: what `CU_STC_PC` makes of base register 15 (R141 in A32, R142 in T32). `undef` is R133; `nop` is
the do-nothing branch of R135; `wbsuppress` is, in A32, the encoding with `wback = false`; what R141 or R142 gives no
definition is refused. -/
def stcUnpredictable (f : Fields) (instr : Word) (s : State) : Outcome :=
  match s.params.cuStcPc, s.iset with
  | .undef, _ => raise (.undefinedInstruction instr) s
  | .nop, _ => advance s
  | .wbsuppress, .a32 => stcAccess f instr false s
  | .refuse, .a32 => .refused (.unpredictable .a1PcWriteback)
  | .wbToPc, .a32 => .refused (.unpredictable .a1PcWriteback)
  | .refuse, .t32 => .refused (.unpredictable .t1PcBase)
  | .wbsuppress, .t32 => .refused (.unpredictable .t1PcBase)
  | .wbToPc, .t32 => .refused (.unpredictable .t1PcBase)

/-- Steps 5 to 11 of R145: the instruction with its condition passed. -/
def stcPassed (f : Fields) (instr : Word) (s : State) : Outcome :=
  if isUndefined f then raise (.undefinedInstruction instr) s
  else if isUnpredictable f s then stcUnpredictable f instr s
  else stcAccess f instr f.w s

/-- Step 3 of R145: with its condition passed the instruction would be UNDEFINED, CONSTRAINED UNPREDICTABLE, not
permitted or trapped. -/
def stcPeculiar (f : Fields) (s : State) : Bool :=
  isUndefined f || isUnpredictable f s || !sysRegPermitted s || hypTrapped s

/-- Step 4 of R145, the instruction with its condition failed (R135). `CondFailPolicy = either` admits two outcomes
for a peculiar one; a free choice takes one of them (D14; log 5). -/
def stcFailed (f : Fields) (instr : Word) (s : State) : Outcome :=
  if stcPeculiar f s then
    match s.params.condFailPolicy with
    | .nop => advance s
    | .either =>
      if Config.condFailDraw s.draws then stcPassed f instr (s.withDraws (s.draws + 1))
      else advance (s.withDraws (s.draws + 1))
  else advance s

/-- Steps 2 to 11 of R145. -/
def stc (f : Fields) (instr : Word) (s : State) : Outcome :=
  if conditionPassed f.cond s then stcPassed f instr s else stcFailed f instr s

end Sys2Proof.Machine
end

