-- ==== Sys2Proof/Machine/StcA1.lean ====
section
/-! DEFINITION. The meanings of the five patterns of class A1 (A32): 40_stc.md R125 to R128 and R133. Each is the
shared operation `stc` on the fields of its row (30_encoding.md R84). -/

namespace Sys2Proof.Machine

/-- STC, A1, Offset (R125). -/
def execStcA1Off (cond : Cond) (u : Bool) (rn : RegNum) (imm8 : Byte) (s : State) : Outcome :=
  stc ⟨cond, true, u, false, rn, imm8⟩ (encode (.stcA1Off cond u rn imm8)) s

/-- STC, A1, Post-indexed (R126). -/
def execStcA1Post (cond : Cond) (u : Bool) (rn : RegNum) (imm8 : Byte) (s : State) : Outcome :=
  stc ⟨cond, false, u, true, rn, imm8⟩ (encode (.stcA1Post cond u rn imm8)) s

/-- STC, A1, Pre-indexed (R127). -/
def execStcA1Pre (cond : Cond) (u : Bool) (rn : RegNum) (imm8 : Byte) (s : State) : Outcome :=
  stc ⟨cond, true, u, true, rn, imm8⟩ (encode (.stcA1Pre cond u rn imm8)) s

/-- STC, A1, Unindexed (R128). -/
def execStcA1Unind (cond : Cond) (rn : RegNum) (imm8 : Byte) (s : State) : Outcome :=
  stc ⟨cond, false, true, false, rn, imm8⟩ (encode (.stcA1Unind cond rn imm8)) s

/-- STC, A1, the UNDEFINED pattern (R133). -/
def execStcA1Undefined (cond : Cond) (rn : RegNum) (imm8 : Byte) (s : State) : Outcome :=
  stc ⟨cond, false, false, false, rn, imm8⟩ (encode (.stcA1Undefined cond rn imm8)) s

end Sys2Proof.Machine
end

