-- ==== Sys2Proof/Machine/StcT1.lean ====
section
/-! DEFINITION. The meanings of the five patterns of class T1 (T32): 40_stc.md R129 to R132 and R134. Each is the
shared operation `stc` on the fields of its row (30_encoding.md R84); a T1 row has 1110 in the place of cond (R82). -/

namespace Sys2Proof.Machine

/-- STC, T1, Offset (R129). -/
def execStcT1Off (u : Bool) (rn : RegNum) (imm8 : Byte) (s : State) : Outcome :=
  stc ⟨.al, true, u, false, rn, imm8⟩ (encode (.stcT1Off u rn imm8)) s

/-- STC, T1, Post-indexed (R130). -/
def execStcT1Post (u : Bool) (rn : RegNum) (imm8 : Byte) (s : State) : Outcome :=
  stc ⟨.al, false, u, true, rn, imm8⟩ (encode (.stcT1Post u rn imm8)) s

/-- STC, T1, Pre-indexed (R131). -/
def execStcT1Pre (u : Bool) (rn : RegNum) (imm8 : Byte) (s : State) : Outcome :=
  stc ⟨.al, true, u, true, rn, imm8⟩ (encode (.stcT1Pre u rn imm8)) s

/-- STC, T1, Unindexed (R132). -/
def execStcT1Unind (rn : RegNum) (imm8 : Byte) (s : State) : Outcome :=
  stc ⟨.al, false, true, false, rn, imm8⟩ (encode (.stcT1Unind rn imm8)) s

/-- STC, T1, the UNDEFINED pattern (R134). -/
def execStcT1Undefined (rn : RegNum) (imm8 : Byte) (s : State) : Outcome :=
  stc ⟨.al, false, false, false, rn, imm8⟩ (encode (.stcT1Undefined rn imm8)) s

end Sys2Proof.Machine
end

