-- ==== Sys2Proof/Machine/Dispatch.lean ====
section
/-! DEFINITION. The dispatch: one arm per constructor of `Instr`. -/

namespace Sys2Proof.Machine

def exec (i : Instr) (s : State) : Host.Outcome State Fault Refusal :=
  match i with
  | .stcA1Off cond u rn imm8 => Sys2Proof.Machine.execStcA1Off cond u rn imm8 s
  | .stcA1Post cond u rn imm8 => Sys2Proof.Machine.execStcA1Post cond u rn imm8 s
  | .stcA1Pre cond u rn imm8 => Sys2Proof.Machine.execStcA1Pre cond u rn imm8 s
  | .stcA1Unind cond rn imm8 => Sys2Proof.Machine.execStcA1Unind cond rn imm8 s
  | .stcA1Undefined cond rn imm8 => Sys2Proof.Machine.execStcA1Undefined cond rn imm8 s
  | .stcT1Off u rn imm8 => Sys2Proof.Machine.execStcT1Off u rn imm8 s
  | .stcT1Post u rn imm8 => Sys2Proof.Machine.execStcT1Post u rn imm8 s
  | .stcT1Pre u rn imm8 => Sys2Proof.Machine.execStcT1Pre u rn imm8 s
  | .stcT1Unind rn imm8 => Sys2Proof.Machine.execStcT1Unind rn imm8 s
  | .stcT1Undefined rn imm8 => Sys2Proof.Machine.execStcT1Undefined rn imm8 s

end Sys2Proof.Machine
end

