-- ==== Sys2Proof/Machine/Fetch.lean ====
section
/-! DEFINITION. Fetching and decoding at `pc` (20_memory.md R59, 30_encoding.md R87, R88), with the checks the spec
makes before an instruction is known, and the launch of one instruction. -/

namespace Sys2Proof.Machine

/-- R25: `pc` is not aligned for the instruction set state. -/
def pcMisaligned (s : State) : Bool :=
  match s.iset with
  | .a32 => s.pc.extractLsb' 0 2 != 0#2
  | .t32 => s.pc.extractLsb' 0 1 != 0#1

/-- R34: a launch state (`pc = Base`, R191) inside an IT block whose condition is 1111 (log 16). -/
def launchITSTATEBad (s : State) : Bool :=
  s.pc == s.base && s.iset == .t32 && s.itstate.extractLsb' 0 4 != 0#4
    && s.itstate.extractLsb' 4 4 == 0b1111#4

/-- The instruction at `pc`, or why there is none. -/
def fetch (s : State) : Except Refusal Instr :=
  if pcMisaligned s then .error .misalignedPC
  else if launchITSTATEBad s then .error .launchITSTATE
  else
    match decodeBytes s.iset (programBytes s s.pc.toNat 4) with
    | .ok (i, _) => .ok i
    | .error .notSTC => .error .notSTC
    | .error .truncated => .error .fetchOutsideProgram

/-- Give the PE the next turn. -/
def peFirst (l : List Turn) : List Turn :=
  match l with
  | .hostWrite v :: rest => .pe :: .hostWrite v :: rest
  | l => l

/-- The launch of a program of one instruction at `pc` (70 R191): the program, the base, the instruction set of the
word, no mark, and the PE's turn (log 8). -/
def launchWord (s : State) (w : Word) : State :=
  { s with
    program := [w], base := s.pc, iset := tableISet w
    fault := none, refused := none, schedule := peFirst s.schedule }

end Sys2Proof.Machine
end

