-- ==== Sys2Proof/Machine/Step.lean ====
section
/-! DEFINITION. One step of the machine: a host move or a PE step (00_scope.md R5, 40_stc.md R145, 60_exceptions.md
R175). -/

namespace Sys2Proof.Machine

/-- One move of one agent: none from a marked state or at the end of the run; else the move of whose turn it is, a
`HostWrite` or the execution of the instruction at `pc`. -/
def step (s : State) : Host.Outcome State Fault Refusal :=
  match halted s with
  | some o => o
  | none =>
    match nextTurn s with
    | .hostWrite v => .next (hostWrite v (takeTurn s))
    | .pe =>
      match fetch s with
      | .error r => .refused r
      | .ok i => exec i (takeTurn s)

/-- `s` launched on a program of the one instruction whose table word is `w` (log 8). -/
def State.withFetchWord (s : State) (nbits w : Nat) : State :=
  launchWord s (BitVec.ofNat 32 (w % 2 ^ nbits))

end Sys2Proof.Machine
end

