-- ==== Sys2Proof/Machine/Assembler.lean ====
section
/-! DEFINITION. The assembler syntax of STC (30_encoding.md R94 to R104): the four address forms, `<c>`, `<q>`, the
sign and the immediate as the programmer writes them, to instructions and back, and the text of a line. Execution does
not use it. -/

namespace Sys2Proof.Machine

/-- `<q>` (R99): `.N` asks for a 16-bit encoding, `.W` for a 32-bit one. -/
inductive Qualifier where
  | narrow
  | wide
  deriving DecidableEq, Repr

/-- The address operand (R95 to R98). `plus` is the sign of the sign (R101), `imm` the offset in bytes; an omitted offset
is `none`. -/
inductive AsmAddress where
  | offset (rn : RegNum) (imm : Option (Bool × Nat))
  | postIndexed (rn : RegNum) (plus : Bool) (imm : Nat)
  | preIndexed (rn : RegNum) (plus : Bool) (imm : Nat)
  | unindexed (rn : RegNum) (option : Nat)
  deriving DecidableEq, Repr

/-- A line `STC{<c>}{<q>} p14, c5, <address>` (R94). `suffix` is `none` where `<c>` is left out. -/
structure AsmLine where
  suffix : Option Cond
  qualifier : Option Qualifier
  address : AsmAddress
  deriving DecidableEq, Repr

/-- `imm8 = <imm>/4`: only a multiple of 4 from 0 to 1020 has an encoding (R85, R101). -/
def asmImm8 (imm : Nat) : Option Byte :=
  if imm % 4 = 0 ∧ imm ≤ 1020 then some (BitVec.ofNat 8 (imm / 4)) else none

/-- `<option>` is 0 to 255 (R102). -/
def asmOption (n : Nat) : Option Byte :=
  if n ≤ 255 then some (BitVec.ofNat 8 n) else none

/-- The condition of a line (R99, R104): 1110 when the suffix is left out. The row 1111 has no suffix (R28). -/
def asmCond (suffix : Option Cond) : Option Cond :=
  match suffix with
  | none => some .al
  | some .nv => none
  | some c => some c

/-- The A1 encoding of an address form (R104). -/
def assembleA1 (cond : Cond) (a : AsmAddress) : Option Instr :=
  match a with
  | .offset rn none => some (.stcA1Off cond true rn 0#8)
  | .offset rn (some (plus, imm)) => (asmImm8 imm).map (.stcA1Off cond plus rn)
  | .postIndexed rn plus imm => (asmImm8 imm).map (.stcA1Post cond plus rn)
  | .preIndexed rn plus imm => (asmImm8 imm).map (.stcA1Pre cond plus rn)
  | .unindexed rn n => (asmOption n).map (.stcA1Unind cond rn)

/-- The T1 encoding of an address form (R104). -/
def assembleT1 (a : AsmAddress) : Option Instr :=
  match a with
  | .offset rn none => some (.stcT1Off true rn 0#8)
  | .offset rn (some (plus, imm)) => (asmImm8 imm).map (.stcT1Off plus rn)
  | .postIndexed rn plus imm => (asmImm8 imm).map (.stcT1Post plus rn)
  | .preIndexed rn plus imm => (asmImm8 imm).map (.stcT1Pre plus rn)
  | .unindexed rn n => (asmOption n).map (.stcT1Unind rn)

/-- R104, in an instruction set and, for T32, under the condition `itCond` the enclosing IT block gives (`al` outside
one), with which the suffix must agree (R99). `.N` cannot be honoured (R99, D31). -/
def assemble (iset : InstrSet) (itCond : Cond) (l : AsmLine) : Option Instr :=
  match l.qualifier, asmCond l.suffix, iset with
  | some .narrow, _, _ => none
  | _, none, _ => none
  | _, some c, .a32 => assembleA1 c l.address
  | _, some c, .t32 => if c = itCond then assembleT1 l.address else none

/-- The suffix to print: nothing for "always". -/
def asmSuffix (c : Cond) : Option Cond :=
  match c with
  | .al => none
  | .nv => none
  | c => some c

/-- The address form of an instruction (R104): sign `-` when U is 0, `<imm> = 4 * imm8`, `<option> = imm8`. The
UNDEFINED patterns have no syntax (40_stc.md R133, R134). -/
def asmAddress (i : Instr) : Option AsmAddress :=
  match i with
  | .stcA1Off _ u rn imm8 => some (.offset rn (some (u, 4 * imm8.toNat)))
  | .stcA1Post _ u rn imm8 => some (.postIndexed rn u (4 * imm8.toNat))
  | .stcA1Pre _ u rn imm8 => some (.preIndexed rn u (4 * imm8.toNat))
  | .stcA1Unind _ rn option => some (.unindexed rn option.toNat)
  | .stcA1Undefined _ _ _ => none
  | .stcT1Off u rn imm8 => some (.offset rn (some (u, 4 * imm8.toNat)))
  | .stcT1Post u rn imm8 => some (.postIndexed rn u (4 * imm8.toNat))
  | .stcT1Pre u rn imm8 => some (.preIndexed rn u (4 * imm8.toNat))
  | .stcT1Unind rn option => some (.unindexed rn option.toNat)
  | .stcT1Undefined _ _ => none

/-- R104 back: the line of an instruction, in T32 under the condition of the enclosing IT block. -/
def disassemble (itCond : Cond) (i : Instr) : Option AsmLine :=
  (asmAddress i).map fun a =>
    match i.iset with
    | .a32 => ⟨asmSuffix (fieldsOf i).cond, none, a⟩
    | .t32 => ⟨asmSuffix itCond, none, a⟩

/-! ### The text -/

/-- The suffix of a condition (10_state.md R28). -/
def suffixText (c : Cond) : String :=
  match c with
  | .eq => "EQ" | .ne => "NE" | .cs => "CS" | .cc => "CC" | .mi => "MI" | .pl => "PL" | .vs => "VS" | .vc => "VC"
  | .hi => "HI" | .ls => "LS" | .ge => "GE" | .lt => "LT" | .gt => "GT" | .le => "LE" | .al => "AL" | .nv => ""

/-- `#<imm>` with its sign (R101). -/
def immText (plus : Bool) (imm : Nat) : String :=
  (if plus then "#" else "#-") ++ toString imm

/-- The text of an address operand (R95 to R98). The braces around `<option>` are characters 123 and 125. -/
def addressText (a : AsmAddress) : String :=
  match a with
  | .offset rn none => "[R" ++ toString rn.val ++ "]"
  | .offset rn (some (plus, imm)) => "[R" ++ toString rn.val ++ ", " ++ immText plus imm ++ "]"
  | .postIndexed rn plus imm => "[R" ++ toString rn.val ++ "], " ++ immText plus imm
  | .preIndexed rn plus imm => "[R" ++ toString rn.val ++ ", " ++ immText plus imm ++ "]!"
  | .unindexed rn n =>
    "[R" ++ toString rn.val ++ "], " ++ String.ofList [Char.ofNat 123] ++ toString n ++ String.ofList [Char.ofNat 125]

/-- The text of a line (R94). -/
def lineText (l : AsmLine) : String :=
  "STC" ++ (match l.suffix with | none => "" | some c => suffixText c)
    ++ (match l.qualifier with | none => "" | some .narrow => ".N" | some .wide => ".W")
    ++ " p14, c5, " ++ addressText l.address

end Sys2Proof.Machine
end

