-- ==== Sys2Proof/Safety.lean ====
section
/-! DEFINITION. The terms claims are stated in: what an STC stores and keeps, when its store is admitted, what a good
state is, and when a run is over. Nothing here is used by the machine. -/

namespace Sys2Proof.Safety

open Sys2Proof.Machine

/-- Byte `k` of a stored word (20_memory.md R53 step 4): bits `8k+7..8k`, counted from the other end when
`BigEndData` (D5). -/
def wordByte (bigEnd : Bool) (v : Word) (k : Nat) : Byte :=
  if bigEnd then v.extractLsb' (8 * (3 - k)) 8 else v.extractLsb' (8 * k) 8

/-- The word an STC reads from DBGDTRRXint (40_stc.md R122): its content, but for an empty register under
`DccModel = rxfull`, where it is a free value. -/
def datum (s : State) : Word :=
  match s.params.dccModel, s.rxfull with
  | .plain, _ => s.dtrrx
  | .rxfull, true => s.dtrrx
  | .rxfull, false => Config.dtrrxDraw s.draws

/-- RXfull after that read (10_state.md R31). -/
def rxfullAfter (s : State) : Bool :=
  match s.params.dccModel with
  | .plain => s.rxfull
  | .rxfull => false

/-- How many free values have been taken after that read. -/
def drawsAfter (s : State) : Nat :=
  match s.params.dccModel, s.rxfull with
  | .plain, _ => s.draws
  | .rxfull, true => s.draws
  | .rxfull, false => s.draws + 1

/-- `t` holds the word `v` in the four bytes at `addr`, and every other byte of memory is as in `s`. -/
def StoredWord (s t : State) (addr v : Word) : Prop :=
  ∀ a : Nat, t.readByte a =
    if addr.toNat ≤ a ∧ a < addr.toNat + 4 then some (wordByte s.params.bigEndData v (a - addr.toNat))
    else s.readByte a

/-- No byte of memory differs. -/
def SameMemory (s t : State) : Prop :=
  ∀ a : Nat, t.readByte a = s.readByte a

/-- Everything that no STC writes (10_state.md R38): the instruction set state, the flags, CPSR.DIT, DBGDTRRXint, mode
and security state, the marks, the program, the parameters, and the turns to come. -/
def KeptByStc (s t : State) : Prop :=
  t.iset = s.iset ∧ t.flagN = s.flagN ∧ t.flagZ = s.flagZ ∧ t.flagC = s.flagC ∧ t.flagV = s.flagV ∧
  t.dit = s.dit ∧ t.dtrrx = s.dtrrx ∧ t.mode = s.mode ∧ t.nonsecure = s.nonsecure ∧
  t.fault = s.fault ∧ t.refused = s.refused ∧ t.program = s.program ∧ t.base = s.base ∧
  t.params = s.params ∧ t.schedule = s.schedule

/-- ITSTATE after a T32 instruction, in the words of 10_state.md R34. -/
def nextItstate (it : BitVec 8) : BitVec 8 :=
  if it.toNat % 8 = 0 then 0#8 else BitVec.ofNat 8 (it.toNat / 32 * 32 + it.toNat % 32 * 2 % 32)

/-- ITSTATE after an STC: advanced in T32, unchanged in A32. -/
def itstateAfter (s : State) : BitVec 8 :=
  match s.iset with
  | .a32 => s.itstate
  | .t32 => nextItstate s.itstate

/-- The offset of an STC, `4 * imm8`, added or subtracted modulo 2^32 (30_encoding.md R85, 40_stc.md R123). -/
def displaced (base : Word) (u : Bool) (imm8 : Byte) : Word :=
  if u then base + BitVec.ofNat 32 (4 * imm8.toNat) else base - BitVec.ofNat 32 (4 * imm8.toNat)

/-- Nothing stands in the way of an access and a store at `addr` (70 R192): the access is permitted and not trapped,
the address is aligned, the platform accepts it, it lies outside the program, and `pc + 4` does not wrap. -/
def StoreOk (s : State) (addr : Word) : Prop :=
  sysRegPermitted s = true ∧ hypTrapped s = false ∧ addr.toNat % 4 = 0 ∧ memAborts s addr 4 = false ∧
  (∀ k < 4, ¬ (s.base.toNat ≤ addr.toNat + k ∧ addr.toNat + k < s.base.toNat + 4 * s.program.length)) ∧
  s.pc.toNat + 4 < 2 ^ 32

/-- The effects of a completed STC but for the register file: the store of the datum at `addr`, RXfull, `pc + 4`,
ITSTATE, the count of free values; and all that it keeps. -/
def StcEffect (s t : State) (addr : Word) : Prop :=
  StoredWord s t addr (datum s) ∧ t.rxfull = rxfullAfter s ∧ t.draws = drawsAfter s ∧
  t.pc = s.pc + 4#32 ∧ t.itstate = itstateAfter s ∧ KeptByStc s t

/-- The register file of `t` is that of `s` with `x[n] = v`; for `n = 15` no register of the file changes. -/
def WroteReg (s t : State) (n : RegNum) (v : Word) : Prop :=
  ∀ k : Nat, ∀ h : k < 15, t.x[k] = if k = n.val then v else s.x[k]

/-- The effects of an STC that does nothing because its condition failed (40_stc.md R135): `pc + 4` and, in T32, the
advance of ITSTATE. -/
def SkipEffect (s t : State) : Prop :=
  t.pc = s.pc + 4#32 ∧ t.itstate = itstateAfter s ∧ t.x = s.x ∧ SameMemory s t ∧ t.rxfull = s.rxfull ∧ KeptByStc s t

/-- The pattern is one of the eight encodings of STC, not an UNDEFINED one (30_encoding.md R84). -/
def isStc : Instr → Bool
  | .stcA1Undefined _ _ _ => false
  | .stcT1Undefined _ _ => false
  | .stcA1Off _ _ _ _ => true
  | .stcA1Post _ _ _ _ => true
  | .stcA1Pre _ _ _ _ => true
  | .stcA1Unind _ _ _ => true
  | .stcT1Off _ _ _ => true
  | .stcT1Post _ _ _ => true
  | .stcT1Pre _ _ _ => true
  | .stcT1Unind _ _ => true

/-- The address an STC stores to, as its meaning computes it. -/
def targetAddr (i : Instr) (s : State) : Word :=
  storeAddr (fieldsOf i) s

/-- The instruction gets as far as its access to DBGDTRRXint, step 7 of 40_stc.md R145: it is one of the eight, its
condition passes, and its base register is usable, or (register 15 with writeback in A32) `CU_STC_PC = wbsuppress`
makes it so (R141; log 22). -/
def Executes (i : Instr) (s : State) : Prop :=
  isStc i = true ∧ conditionPassed (fieldsOf i).cond s = true ∧
  (isUnpredictable (fieldsOf i) s = false ∨ (s.params.cuStcPc = .wbsuppress ∧ s.iset = .a32))

/-- `pc` is aligned for the instruction set state (10_state.md R25). -/
def PcAligned (s : State) : Prop :=
  (s.iset = .a32 → s.pc.toNat % 4 = 0) ∧ (s.iset = .t32 → s.pc.toNat % 2 = 0)

/-- The invariant of a run: memory in canonical form, `pc` aligned (R25), ITSTATE zero in A32 (R34). -/
def StateInv (s : State) : Prop :=
  s.mem.wf = true ∧ PcAligned s ∧ (s.iset = .a32 → s.itstate = 0#8)

/-- `pc` stands at an instruction of the program or at its end, and the program ends inside the address space (70 R191,
R194). -/
def OnProgram (s : State) : Prop :=
  PcAligned s ∧ s.base.toNat ≤ s.pc.toNat ∧ s.pc.toNat ≤ s.progEnd ∧ (s.pc.toNat - s.base.toNat) % 4 = 0 ∧
  s.progEnd ≤ 2 ^ 32

/-- The launch premises (70 R194) on the state, and the launch R34 does not refuse. -/
def LaunchOk (s : State) : Prop :=
  s.fault = none ∧ s.refused = none ∧ s.pc = s.base ∧ PcAligned s ∧ s.progEnd ≤ 2 ^ 32 ∧
  (s.iset = .a32 → s.itstate = 0#8) ∧ launchITSTATEBad s = false

/-- A final state (70 R193). -/
def Final (s : State) : Prop :=
  s.fault = none ∧ s.refused = none ∧ s.pc.toNat = s.progEnd

/-- The PE is about to execute: no mark, not at the end, its turn, no refusal of R25 or R34. -/
def PeReady (s : State) : Prop :=
  s.fault = none ∧ s.refused = none ∧ s.pc.toNat ≠ s.progEnd ∧ nextTurn s = .pe ∧ PcAligned s ∧
  launchITSTATEBad s = false

/-- How much is left of a run: the addresses `pc` has before it and the turns to come. -/
def remaining (s : State) : Nat :=
  (2 ^ 32 - s.pc.toNat) + s.schedule.length

/-- The outcome with its next state changed by `f`. -/
def mapNext (f : State → State) (o : Outcome) : Outcome :=
  match o with
  | .next t => .next (f t)
  | .fault r => .fault r
  | .refused r => .refused r

/-- The same fault recording another instruction word. -/
def faultWithInstr (w : Word) (f : Fault) : Fault :=
  match f with
  | .undefinedInstruction _ pc => .undefinedInstruction w pc
  | .hypTrap _ pc => .hypTrap w pc
  | .dataAbort kind address _ pc => .dataAbort kind address w pc

/-- The outcome with the instruction word of its fault replaced. -/
def mapInstr (w : Word) (o : Outcome) : Outcome :=
  match o with
  | .next t => .next t
  | .fault f => .fault (faultWithInstr w f)
  | .refused r => .refused r

/-- The A1 encoding of the same form with condition AL (40_stc.md section 4, 30_encoding.md R82). -/
def a1Twin : Instr → Instr
  | .stcT1Off u rn imm8 => .stcA1Off .al u rn imm8
  | .stcT1Post u rn imm8 => .stcA1Post .al u rn imm8
  | .stcT1Pre u rn imm8 => .stcA1Pre .al u rn imm8
  | .stcT1Unind rn imm8 => .stcA1Unind .al rn imm8
  | .stcT1Undefined rn imm8 => .stcA1Undefined .al rn imm8
  | .stcA1Off cond u rn imm8 => .stcA1Off cond u rn imm8
  | .stcA1Post cond u rn imm8 => .stcA1Post cond u rn imm8
  | .stcA1Pre cond u rn imm8 => .stcA1Pre cond u rn imm8
  | .stcA1Unind cond rn imm8 => .stcA1Unind cond rn imm8
  | .stcA1Undefined cond rn imm8 => .stcA1Undefined cond rn imm8

end Sys2Proof.Safety
end

