-- ==== Sys2Proof/Certificates/Slice0/Obligations.lean ====
section
/-! DEFINITION. The statements for the provers. "Decision D<n>" is a choice the spec marks as its own
(92_eei_decisions.md); a statement that rests on one says so. -/

open Sys2Proof Sys2Proof.Machine Sys2Proof.Safety

/-! ### Encoding and decoding -/

/-- Decoding the encoding of a well-formed instruction gives it back (30_encoding.md R81, R82, R84, R87, R88). -/
def Obligations.DecodeOfEncodedInstruction : Prop :=
  ∀ i : Instr, i.wf = true → decodeWord i.iset (encode i) = some i

/-- A decoded word is the encoding of what it decodes to: no bit is dropped (R86 to R88, R91). -/
def Obligations.EncodeOfDecodedWord : Prop :=
  ∀ (iset : InstrSet) (w : Word) (i : Instr), decodeWord iset w = some i →
    encode i = w ∧ i.wf = true ∧ i.iset = iset

/-- The same through the bytes memory holds, lowest address first, with any bytes after them. The byte order is
decision D6 (20_memory.md R55). -/
def Obligations.DecodeBytesOfEncodedInstruction : Prop :=
  ∀ (i : Instr) (rest : List Byte), i.wf = true →
    decodeBytes i.iset (wordToBytes i.iset (encode i) ++ rest) = .ok (i, rest)

/-- R86: a word belongs to a row exactly when it has the row's mask and match (and, in A1, cond is not 1111), its
letters c, U, n, i are the row's operands; the class masks; the five rows of a class are together the class. -/
def Obligations.RowsByMaskAndMatch : Prop :=
  ∀ w : Word,
    let c := Cond.ofBits (w.extractLsb' 28 4)
    let u := w.getLsbD 23
    let n : RegNum := (w.extractLsb' 16 4).toFin
    let m := w.extractLsb' 0 8
    let notNv := w.extractLsb' 28 4 ≠ 0b1111#4
    (decodeWord .a32 w = some (.stcA1Off c u n m) ↔ w &&& 0x0F70FF00#32 = 0x0D005E00#32 ∧ notNv) ∧
    (decodeWord .a32 w = some (.stcA1Post c u n m) ↔ w &&& 0x0F70FF00#32 = 0x0C205E00#32 ∧ notNv) ∧
    (decodeWord .a32 w = some (.stcA1Pre c u n m) ↔ w &&& 0x0F70FF00#32 = 0x0D205E00#32 ∧ notNv) ∧
    (decodeWord .a32 w = some (.stcA1Unind c n m) ↔ w &&& 0x0FF0FF00#32 = 0x0C805E00#32 ∧ notNv) ∧
    (decodeWord .a32 w = some (.stcA1Undefined c n m) ↔ w &&& 0x0FF0FF00#32 = 0x0C005E00#32 ∧ notNv) ∧
    (decodeWord .t32 w = some (.stcT1Off u n m) ↔ w &&& 0xFF70FF00#32 = 0xED005E00#32) ∧
    (decodeWord .t32 w = some (.stcT1Post u n m) ↔ w &&& 0xFF70FF00#32 = 0xEC205E00#32) ∧
    (decodeWord .t32 w = some (.stcT1Pre u n m) ↔ w &&& 0xFF70FF00#32 = 0xED205E00#32) ∧
    (decodeWord .t32 w = some (.stcT1Unind n m) ↔ w &&& 0xFFF0FF00#32 = 0xEC805E00#32) ∧
    (decodeWord .t32 w = some (.stcT1Undefined n m) ↔ w &&& 0xFFF0FF00#32 = 0xEC005E00#32) ∧
    (decodeWord .a32 w = none ↔ ¬ (w &&& 0x0E50FF00#32 = 0x0C005E00#32 ∧ notNv)) ∧
    (decodeWord .t32 w = none ↔ ¬ w &&& 0xFE50FF00#32 = 0xEC005E00#32) ∧
    (w &&& 0x0E50FF00#32 = 0x0C005E00#32 ↔
      w &&& 0x0F70FF00#32 = 0x0D005E00#32 ∨ w &&& 0x0F70FF00#32 = 0x0C205E00#32 ∨
      w &&& 0x0F70FF00#32 = 0x0D205E00#32 ∨ w &&& 0x0FF0FF00#32 = 0x0C805E00#32 ∨
      w &&& 0x0FF0FF00#32 = 0x0C005E00#32) ∧
    (w &&& 0xFE50FF00#32 = 0xEC005E00#32 ↔
      w &&& 0xFF70FF00#32 = 0xED005E00#32 ∨ w &&& 0xFF70FF00#32 = 0xEC205E00#32 ∨
      w &&& 0xFF70FF00#32 = 0xED205E00#32 ∨ w &&& 0xFFF0FF00#32 = 0xEC805E00#32 ∨
      w &&& 0xFFF0FF00#32 = 0xEC005E00#32)

/-- The fields of a decoded word stand at the bits the diagrams give (R83, R87, R88); a T1 word has no cond, and the
model's fields hold AL there. -/
def Obligations.FieldsOfDecodedWord : Prop :=
  ∀ (iset : InstrSet) (w : Word) (i : Instr), decodeWord iset w = some i →
    (fieldsOf i).p = w.getLsbD 24 ∧ (fieldsOf i).u = w.getLsbD 23 ∧ (fieldsOf i).w = w.getLsbD 21 ∧
    (fieldsOf i).rn.val = (w.extractLsb' 16 4).toNat ∧ (fieldsOf i).imm8 = w.extractLsb' 0 8 ∧
    (fieldsOf i).cond = (if iset = .a32 then Cond.ofBits (w.extractLsb' 28 4) else .al)

/-- Words written out bit by bit from the diagrams decode to the instructions they stand for (95_test_vectors.md VD1,
VD3, VD4, VD5, VD6, VD10, VD18, VD21, VD22). -/
def Obligations.SpecWordsDecode : Prop :=
  decodeWord .a32 0b1110_1101_1000_0001_0101_1110_0000_0001#32 = some (.stcA1Off .al true 1 0x01#8) ∧
  decodeWord .a32 0b1110_1101_0010_0010_0101_1110_0000_0010#32 = some (.stcA1Pre .al false 2 0x02#8) ∧
  decodeWord .a32 0b1110_1100_1000_0011_0101_1110_0000_0111#32 = some (.stcA1Unind .al 3 0x07#8) ∧
  decodeWord .a32 0b1110_1100_0000_0011_0101_1110_0000_0111#32 = some (.stcA1Undefined .al 3 0x07#8) ∧
  decodeWord .a32 0b0000_1101_1000_0100_0101_1110_1111_1111#32 = some (.stcA1Off .eq true 4 0xFF#8) ∧
  decodeWord .a32 0b1111_1101_1000_0001_0101_1110_0000_0001#32 = none ∧
  decodeWord .t32 0b1110_1100_1010_0000_0101_1110_0000_0001#32 = some (.stcT1Post true 0 0x01#8) ∧
  decodeWord .t32 0b1110_1100_0000_0011_0101_1110_0000_0111#32 = some (.stcT1Undefined 3 0x07#8) ∧
  decodeWord .t32 0b0000_1101_1000_0001_0101_1110_0000_0001#32 = none

/-- A word at `pc` that is no STC is refused by name (R90, R91; decision D23). The word is formed from the four bytes
as 20_memory.md R55 says. -/
def Obligations.NotStcIsRefusedByName : Prop :=
  ∀ (s : State) (b0 b1 b2 b3 : Byte), PeReady s → programBytes s s.pc.toNat 4 = [b0, b1, b2, b3] →
    decodeWord s.iset (if s.iset = .a32 then joinBytes b0 b1 b2 b3 else joinBytes b2 b3 b0 b1) = none →
    step s = .refused .notSTC

/-- R88, decision D29: a halfword announces a 32-bit instruction when its bits 15:11 are 11101, 11110 or 11111; every
T1 encoding starts with such a halfword; any other halfword is not an STC, whatever follows it; and such a halfword
alone is no whole instruction. -/
def Obligations.T32LengthByFirstHalfword : Prop :=
  (∀ h : Halfword, firstOf32 h = true ↔ h.toNat / 2048 = 29 ∨ h.toNat / 2048 = 30 ∨ h.toNat / 2048 = 31) ∧
  (∀ i : Instr, i.iset = .t32 → firstOf32 ((encode i).extractLsb' 16 16) = true) ∧
  (∀ (b0 b1 : Byte) (rest : List Byte), firstOf32 (joinHalfword b0 b1) = false →
    decodeBytes .t32 (b0 :: b1 :: rest) = .error .notSTC) ∧
  (∀ b0 b1 : Byte, firstOf32 (joinHalfword b0 b1) = true → decodeBytes .t32 [b0, b1] = .error .truncated)

/-- R85: the immediate is `imm8` times 4, from 0 to 1020, never sign-extended; the sign of the offset is the bit U of
the word (R83); the assembler takes exactly the multiples of 4 in that range, as `<imm>/4`; an omitted offset is 0, with
the sign + (R95, R101); the base register number is the unsigned reading of Rn; and in the Unindexed encodings the
immediate is not used. -/
def Obligations.ImmediateIsImm8TimesFour : Prop :=
  (∀ imm8 : Byte, (imm32 imm8).toNat = 4 * imm8.toNat ∧ (imm32 imm8).toNat ≤ 1020) ∧
  (∀ (n : Nat) (b : Byte), asmImm8 n = some b ↔ n % 4 = 0 ∧ n ≤ 1020 ∧ b.toNat = n / 4) ∧
  (∀ (c : Cond) (rn : RegNum),
    assembleA1 c (.offset rn none) = assembleA1 c (.offset rn (some (true, 0))) ∧
    assembleT1 (.offset rn none) = assembleT1 (.offset rn (some (true, 0)))) ∧
  (∀ (iset : InstrSet) (w : Word) (i : Instr) (s : State), decodeWord iset w = some i →
    (fieldsOf i).rn.val = (w.extractLsb' 16 4).toNat ∧
    (w.getLsbD 23 = true → offsetAddr (fieldsOf i) s = readReg s (fieldsOf i).rn + imm32 (w.extractLsb' 0 8)) ∧
    (w.getLsbD 23 = false → offsetAddr (fieldsOf i) s = readReg s (fieldsOf i).rn - imm32 (w.extractLsb' 0 8))) ∧
  (∀ (c : Cond) (rn : RegNum) (option : Byte) (s : State),
    targetAddr (.stcA1Unind c rn option) s = readReg s rn ∧ targetAddr (.stcT1Unind rn option) s = readReg s rn)

/-- R104: assembling the disassembly of a well-formed instruction gives it back, in T32 under the condition the IT
block gives. Decision D31 fixes `#-0` and the omitted suffix. -/
def Obligations.AssembleOfDisassembledInstruction : Prop :=
  ∀ (i : Instr) (itCond : Cond) (l : AsmLine), i.wf = true → itCond ≠ .nv → disassemble itCond i = some l →
    assemble i.iset itCond l = some i

/-- What the assembler makes is a well-formed STC of the instruction set asked for, never an UNDEFINED pattern; `.N`
cannot be honoured; in T32 the suffix agrees with the IT block (R99, R104; decision D31). -/
def Obligations.AssembledInstructionIsStc : Prop :=
  ∀ (iset : InstrSet) (itCond : Cond) (l : AsmLine) (i : Instr), assemble iset itCond l = some i →
    i.wf = true ∧ i.iset = iset ∧ isStc i = true ∧ l.qualifier ≠ some .narrow ∧
    (iset = .t32 → asmCond l.suffix = some itCond) ∧ (iset = .a32 → asmCond l.suffix = some (fieldsOf i).cond)

/-! ### Conditions -/

/-- The condition table of 10_state.md R28 (general knowledge G1, decision D13). -/
def Obligations.ConditionTable : Prop :=
  ∀ s : State,
    (conditionHolds .eq s = true ↔ s.flagZ = true) ∧ (conditionHolds .ne s = true ↔ s.flagZ = false) ∧
    (conditionHolds .cs s = true ↔ s.flagC = true) ∧ (conditionHolds .cc s = true ↔ s.flagC = false) ∧
    (conditionHolds .mi s = true ↔ s.flagN = true) ∧ (conditionHolds .pl s = true ↔ s.flagN = false) ∧
    (conditionHolds .vs s = true ↔ s.flagV = true) ∧ (conditionHolds .vc s = true ↔ s.flagV = false) ∧
    (conditionHolds .hi s = true ↔ s.flagC = true ∧ s.flagZ = false) ∧
    (conditionHolds .ls s = true ↔ s.flagC = false ∨ s.flagZ = true) ∧
    (conditionHolds .ge s = true ↔ s.flagN = s.flagV) ∧ (conditionHolds .lt s = true ↔ s.flagN ≠ s.flagV) ∧
    (conditionHolds .gt s = true ↔ s.flagZ = false ∧ s.flagN = s.flagV) ∧
    (conditionHolds .le s = true ↔ s.flagZ = true ∨ s.flagN ≠ s.flagV) ∧
    conditionHolds .al s = true ∧ conditionHolds .nv s = true

/-- R28: the current condition is the field `cond` in A32; in T32 it is ITSTATE[7:4] inside an IT block and 1110
outside (general knowledge G2, decision D13). -/
def Obligations.CurrentCondition : Prop :=
  ∀ (cond : Cond) (s : State),
    (s.iset = .a32 → currentCond cond s = cond) ∧
    (s.iset = .t32 → s.itstate.toNat % 16 = 0 → currentCond cond s = .al) ∧
    (s.iset = .t32 → s.itstate.toNat % 16 ≠ 0 → (currentCond cond s).toBits.toNat = s.itstate.toNat / 16)

/-- After every STC, executed or skipped, ITSTATE has advanced in T32 and is unchanged in A32 (R34; general knowledge
G2, decision D13). -/
def Obligations.ItstateAfterEveryStc : Prop :=
  ∀ (i : Instr) (s t : State), exec i s = .next t → t.itstate = itstateAfter s

/-! ### What each encoding does

The eight statements of an encoding's result: with the condition passed and nothing in the way of the store
(`StoreOk`), `exec` ANSWERS a next state with the datum stored at the address, the base register as the row says, and
all else as `StcEffect` says. pc + 4 is decision D12, the byte order D5, the read of DBGDTRRXint D3 and D4. -/

/-- STC, A1, Offset (40_stc.md R125), with the PC as base register included (R138). -/
def Obligations.StcA1OffStores : Prop :=
  ∀ (cond : Cond) (u : Bool) (rn : RegNum) (imm8 : Byte) (s : State),
    s.iset = .a32 → conditionPassed cond s = true → StoreOk s (displaced (readReg s rn) u imm8) →
    ∃ t, exec (.stcA1Off cond u rn imm8) s = .next t ∧ StcEffect s t (displaced (readReg s rn) u imm8) ∧ t.x = s.x

/-- STC, A1, Post-indexed (R126). -/
def Obligations.StcA1PostStoresAndWritesBack : Prop :=
  ∀ (cond : Cond) (u : Bool) (rn : RegNum) (imm8 : Byte) (s : State),
    s.iset = .a32 → rn ≠ 15 → conditionPassed cond s = true → StoreOk s (readReg s rn) →
    ∃ t, exec (.stcA1Post cond u rn imm8) s = .next t ∧ StcEffect s t (readReg s rn) ∧
      WroteReg s t rn (displaced (readReg s rn) u imm8)

/-- STC, A1, Pre-indexed (R127). -/
def Obligations.StcA1PreStoresAndWritesBack : Prop :=
  ∀ (cond : Cond) (u : Bool) (rn : RegNum) (imm8 : Byte) (s : State),
    s.iset = .a32 → rn ≠ 15 → conditionPassed cond s = true → StoreOk s (displaced (readReg s rn) u imm8) →
    ∃ t, exec (.stcA1Pre cond u rn imm8) s = .next t ∧ StcEffect s t (displaced (readReg s rn) u imm8) ∧
      WroteReg s t rn (displaced (readReg s rn) u imm8)

/-- STC, A1, Unindexed (R128), with the PC as base register included (R138). -/
def Obligations.StcA1UnindStores : Prop :=
  ∀ (cond : Cond) (rn : RegNum) (option : Byte) (s : State),
    s.iset = .a32 → conditionPassed cond s = true → StoreOk s (readReg s rn) →
    ∃ t, exec (.stcA1Unind cond rn option) s = .next t ∧ StcEffect s t (readReg s rn) ∧ t.x = s.x

/-- STC, T1, Offset (R129); base register 15 is `PcBaseByParameter`. -/
def Obligations.StcT1OffStores : Prop :=
  ∀ (u : Bool) (rn : RegNum) (imm8 : Byte) (s : State),
    s.iset = .t32 → rn ≠ 15 → conditionPassed .al s = true → StoreOk s (displaced (readReg s rn) u imm8) →
    ∃ t, exec (.stcT1Off u rn imm8) s = .next t ∧ StcEffect s t (displaced (readReg s rn) u imm8) ∧ t.x = s.x

/-- STC, T1, Post-indexed (R130). -/
def Obligations.StcT1PostStoresAndWritesBack : Prop :=
  ∀ (u : Bool) (rn : RegNum) (imm8 : Byte) (s : State),
    s.iset = .t32 → rn ≠ 15 → conditionPassed .al s = true → StoreOk s (readReg s rn) →
    ∃ t, exec (.stcT1Post u rn imm8) s = .next t ∧ StcEffect s t (readReg s rn) ∧
      WroteReg s t rn (displaced (readReg s rn) u imm8)

/-- STC, T1, Pre-indexed (R131). -/
def Obligations.StcT1PreStoresAndWritesBack : Prop :=
  ∀ (u : Bool) (rn : RegNum) (imm8 : Byte) (s : State),
    s.iset = .t32 → rn ≠ 15 → conditionPassed .al s = true → StoreOk s (displaced (readReg s rn) u imm8) →
    ∃ t, exec (.stcT1Pre u rn imm8) s = .next t ∧ StcEffect s t (displaced (readReg s rn) u imm8) ∧
      WroteReg s t rn (displaced (readReg s rn) u imm8)

/-- STC, T1, Unindexed (R132). -/
def Obligations.StcT1UnindStores : Prop :=
  ∀ (rn : RegNum) (option : Byte) (s : State),
    s.iset = .t32 → rn ≠ 15 → conditionPassed .al s = true → StoreOk s (readReg s rn) →
    ∃ t, exec (.stcT1Unind rn option) s = .next t ∧ StcEffect s t (readReg s rn) ∧ t.x = s.x

/-- 10_state.md R22, R138: register 15 read as a base is `pc + 8` (general knowledge G3, decision D11); the others are
the register file; and a write to 15, which no rule makes, writes nothing (log 14). -/
def Obligations.RegisterFifteenReadsPcPlus8 : Prop :=
  ∀ (s : State) (v : Word),
    readReg s 15 = s.pc + 8#32 ∧ writeReg s 15 v = s ∧
    ∀ (k : Nat) (h : k < 15), readReg s ⟨k, by omega⟩ = s.x[k]

/-! ### Condition failed -/

/-- R135: each of the eight encodings, its condition failed and with no other peculiarity, does nothing but advance. -/
def Obligations.FailedConditionSkips : Prop :=
  ∀ (i : Instr) (s : State), isStc i = true → conditionPassed (fieldsOf i).cond s = false →
    isUnpredictable (fieldsOf i) s = false → sysRegPermitted s = true → hypTrapped s = false →
    s.pc.toNat + 4 < 2 ^ 32 →
    ∃ t, exec i s = .next t ∧ SkipEffect s t ∧ t.draws = s.draws

/-- R135 with `CondFailPolicy = nop`: each of the ten patterns, the two UNDEFINED ones among them, does nothing but
advance when its condition fails, whatever else holds of it (decision D14). -/
def Obligations.FailedConditionSkipsUnderNop : Prop :=
  ∀ (i : Instr) (s : State), conditionPassed (fieldsOf i).cond s = false → s.params.condFailPolicy = .nop →
    s.pc.toNat + 4 < 2 ^ 32 →
    ∃ t, exec i s = .next t ∧ SkipEffect s t ∧ t.draws = s.draws

/-- R135 with `CondFailPolicy = either` (decision D14): a peculiar instruction whose condition fails either does
nothing but advance, or ends as with its condition passed, but for the count of free values. -/
def Obligations.FailedConditionUnderEither : Prop :=
  ∀ (i : Instr) (s : State), conditionPassed (fieldsOf i).cond s = false → stcPeculiar (fieldsOf i) s = true →
    s.params.condFailPolicy = .either → s.pc.toNat + 4 < 2 ^ 32 →
    (∃ t, exec i s = .next t ∧ SkipEffect s t) ∨
      exec i s = stcPassed (fieldsOf i) (encode i) (s.withDraws (s.draws + 1))

/-! ### Faults and refusals -/

/-- R133, R134, R161: an UNDEFINED pattern whose condition passes raises UndefinedInstruction in every state, base
register 15 included, recording its word and `pc` (the record is decision D18). -/
def Obligations.UndefinedPatternFaults : Prop :=
  (∀ (cond : Cond) (rn : RegNum) (imm8 : Byte) (s : State), conditionPassed cond s = true →
    exec (.stcA1Undefined cond rn imm8) s =
      .fault (.undefinedInstruction (encode (.stcA1Undefined cond rn imm8)) s.pc)) ∧
  (∀ (rn : RegNum) (imm8 : Byte) (s : State), conditionPassed .al s = true →
    exec (.stcT1Undefined rn imm8) s = .fault (.undefinedInstruction (encode (.stcT1Undefined rn imm8)) s.pc))

/-- R141, R142, decision D15: what each setting of `CU_STC_PC` makes of an STC with base register 15 and (in A32)
writeback; `wbsuppress` in A32 is `PcBaseWritebackSuppressed`. -/
def Obligations.PcBaseByParameter : Prop :=
  ∀ (i : Instr) (s : State), isStc i = true → conditionPassed (fieldsOf i).cond s = true →
    (fieldsOf i).rn = 15 → ((fieldsOf i).w = true ∨ s.iset = .t32) →
    (s.params.cuStcPc = .undef → exec i s = .fault (.undefinedInstruction (encode i) s.pc)) ∧
    (s.params.cuStcPc = .nop → s.pc.toNat + 4 < 2 ^ 32 → ∃ t, exec i s = .next t ∧ SkipEffect s t) ∧
    (s.params.cuStcPc = .refuse ∨ s.params.cuStcPc = .wbToPc →
      exec i s = .refused (.unpredictable (if s.iset = .a32 then .a1PcWriteback else .t1PcBase))) ∧
    (s.params.cuStcPc = .wbsuppress → s.iset = .t32 → exec i s = .refused (.unpredictable .t1PcBase))

/-- R141 with `CU_STC_PC = wbsuppress`: the A1 Post-indexed and Pre-indexed encodings with base register 15 store with
base `pc + 8` and write no register back (general knowledge G6, decision D15). -/
def Obligations.PcBaseWritebackSuppressed : Prop :=
  ∀ (cond : Cond) (u : Bool) (imm8 : Byte) (s : State),
    s.iset = .a32 → conditionPassed cond s = true → s.params.cuStcPc = .wbsuppress →
    (StoreOk s (s.pc + 8#32) →
      ∃ t, exec (.stcA1Post cond u 15 imm8) s = .next t ∧ StcEffect s t (s.pc + 8#32) ∧ t.x = s.x) ∧
    (StoreOk s (displaced (s.pc + 8#32) u imm8) →
      ∃ t, exec (.stcA1Pre cond u 15 imm8) s = .next t ∧ StcEffect s t (displaced (s.pc + 8#32) u imm8) ∧ t.x = s.x)

/-- R143: an access that is not permitted is UNDEFINED, whatever the trap and the address (decision D16); the A1 access
with base register 15 under `CU_STC_PC = wbsuppress` (R141; decision D15, log 22) included. -/
def Obligations.NotPermittedIsUndefined : Prop :=
  ∀ (i : Instr) (s : State), Executes i s → sysRegPermitted s = false →
    exec i s = .fault (.undefinedInstruction (encode i) s.pc)

/-- R144, R163: an executing STC is trapped to Hyp mode exactly in an implementation with EL2, in Non-secure state, in
a mode other than Hyp, where the access is permitted and the controls trap it; and no instruction raises HypTrap
otherwise. That the trap comes before the store's own faults is decision D19. The A1 access with base
register 15 under `CU_STC_PC = wbsuppress` (R141; decision D15, log 22) is included. -/
def Obligations.HypTrapExactly : Prop :=
  (∀ (i : Instr) (s : State), Executes i s →
    (exec i s = .fault (.hypTrap (encode i) s.pc) ↔
      s.params.haveEL2 = true ∧ s.nonsecure = true ∧ s.mode ≠ .hyp ∧ sysRegPermitted s = true ∧
      hypTrapDebug s = true)) ∧
  (∀ (i : Instr) (s : State) (w pc : Word), exec i s = .fault (.hypTrap w pc) →
    w = encode i ∧ pc = s.pc ∧ s.params.haveEL2 = true ∧ s.nonsecure = true ∧ s.mode ≠ .hyp ∧
    sysRegPermitted s = true ∧ hypTrapDebug s = true)

/-- 20_memory.md R53, R56, R61, R65 and 60_exceptions.md R167: the store's own checks in order, each on the address the
meaning computes: alignment (D7), the platform (D8), the program (D10). The A1 store with base register 15 under
`CU_STC_PC = wbsuppress` (R141; decision D15, log 22) is included. -/
def Obligations.StoreChecksInOrder : Prop :=
  ∀ (i : Instr) (s : State), Executes i s → sysRegPermitted s = true → hypTrapped s = false →
    let a := targetAddr i s
    (a.toNat % 4 ≠ 0 → exec i s = .fault (.dataAbort .alignment a (encode i) s.pc)) ∧
    (a.toNat % 4 = 0 → memAborts s a 4 = true → exec i s = .fault (.dataAbort .platform a (encode i) s.pc)) ∧
    (a.toNat % 4 = 0 → memAborts s a 4 = false →
      (∃ k < 4, s.base.toNat ≤ a.toNat + k ∧ a.toNat + k < s.progEnd) → exec i s = .refused .storeIntoProgram)

/-- 10_state.md R25: an instruction that would complete, or do nothing, is refused where `pc + 4` exceeds 0xFFFFFFFF
(decision D12; the moment of the test is log 17): a store that nothing else stops, the A1 store under
`CU_STC_PC = wbsuppress` included; a no-op under `CU_STC_PC = nop` (decision D15); a skip of any of the ten patterns. For
a peculiar instruction whose condition fails under `CondFailPolicy = either` (decision D14), that is one of the two
outcomes, and the other is that of the condition passed. -/
def Obligations.PcWrapIsRefused : Prop :=
  ∀ (i : Instr) (s : State), 2 ^ 32 ≤ s.pc.toNat + 4 →
    (Executes i s → sysRegPermitted s = true → hypTrapped s = false →
      (targetAddr i s).toNat % 4 = 0 → memAborts s (targetAddr i s) 4 = false →
      (∀ k < 4, ¬ (s.base.toNat ≤ (targetAddr i s).toNat + k ∧ (targetAddr i s).toNat + k < s.progEnd)) →
      exec i s = .refused .pcWrap) ∧
    (isStc i = true → conditionPassed (fieldsOf i).cond s = true → isUnpredictable (fieldsOf i) s = true →
      s.params.cuStcPc = .nop → exec i s = .refused .pcWrap) ∧
    (conditionPassed (fieldsOf i).cond s = false →
      stcPeculiar (fieldsOf i) s = false ∨ s.params.condFailPolicy = .nop → exec i s = .refused .pcWrap) ∧
    (conditionPassed (fieldsOf i).cond s = false → stcPeculiar (fieldsOf i) s = true →
      s.params.condFailPolicy = .either →
      exec i s = .refused .pcWrap ∨
        exec i s = stcPassed (fieldsOf i) (encode i) (s.withDraws (s.draws + 1)))

/-- 60_exceptions.md R160, R164, 40_stc.md R147: the faults of an instruction are these, each recording the
instruction's word and `pc`; a DataAbort records the address of the store, and no UNDEFINED pattern raises one (the
record is decision D18). -/
def Obligations.FaultsRecordTheInstruction : Prop :=
  ∀ (i : Instr) (s : State) (f : Fault), exec i s = .fault f →
    f = .undefinedInstruction (encode i) s.pc ∨ (isStc i = true ∧ f = .hypTrap (encode i) s.pc) ∨
    (isStc i = true ∧ ∃ kind, f = .dataAbort kind (targetAddr i s) (encode i) s.pc)

/-- 40_stc.md R145, R147: the refusals of an instruction are these; it is refused as unpredictable only with base
register 15 and writeback or T32, and then under the name of its class's case. -/
def Obligations.RefusalsOfAnInstruction : Prop :=
  ∀ (i : Instr) (s : State) (r : Refusal), exec i s = .refused r →
    (r = .unpredictable (if s.iset = .a32 then .a1PcWriteback else .t1PcBase) ∧ isStc i = true ∧
      (fieldsOf i).rn = 15 ∧ ((fieldsOf i).w = true ∨ s.iset = .t32)) ∨
    r = .storeIntoProgram ∨ r = .pcWrap

/-! ### Frames -/

/-- R38, R136, 20_memory.md R52, R53: whatever an STC that answers a next state did, it changed, besides `pc`, ITSTATE
and RXfull (and the model's count of free values), no register but its base register, and that only in a writeback row;
no flag, mode, mark, parameter or System register; and no byte of memory outside the four at the address its meaning
computes. `pc` is `pc + 4` (decision D12), ITSTATE as R34 says (D13), RXfull as it was or as the read of DBGDTRRXint
leaves it (D4). The UNDEFINED patterns change no byte, no register and not RXfull. -/
def Obligations.FrameOfEveryStc : Prop :=
  ∀ (i : Instr) (s t : State), exec i s = .next t →
    KeptByStc s t ∧
    t.pc = s.pc + 4#32 ∧ t.itstate = itstateAfter s ∧ (t.rxfull = s.rxfull ∨ t.rxfull = rxfullAfter s) ∧
    (∀ k : Nat, ∀ h : k < 15, ¬ ((fieldsOf i).w = true ∧ k = (fieldsOf i).rn.val) → t.x[k] = s.x[k]) ∧
    (∀ a : Nat, ¬ ((targetAddr i s).toNat ≤ a ∧ a < (targetAddr i s).toNat + 4) → t.readByte a = s.readByte a) ∧
    (isStc i = false → SameMemory s t ∧ t.x = s.x ∧ t.rxfull = s.rxfull)

/-- R137, R24: STC is no control transfer: it continues at `pc + 4`, which does not wrap, in the same instruction set
state (decision D12). -/
def Obligations.PcAfterEveryStc : Prop :=
  ∀ (i : Instr) (s t : State), exec i s = .next t →
    s.pc.toNat + 4 < 2 ^ 32 ∧ t.pc.toNat = s.pc.toNat + 4 ∧ t.iset = s.iset

/-- R136: the flags act only through `ConditionPassed()`: two states that differ in nothing but the flags, with the
condition check and the predicates of the environment alike, end alike, each with its own flags. -/
def Obligations.FlagsActOnlyThroughTheCondition : Prop :=
  ∀ (i : Instr) (s : State) (n z c v : Bool),
    let s' := { s with flagN := n, flagZ := z, flagC := c, flagV := v }
    conditionPassed (fieldsOf i).cond s' = conditionPassed (fieldsOf i).cond s →
    sysRegPermitted s' = sysRegPermitted s → hypTrapDebug s' = hypTrapDebug s →
    (∀ a : Word, memAborts s' a 4 = memAborts s a 4) →
    exec i s' = mapNext (fun t => { t with flagN := n, flagZ := z, flagC := c, flagV := v }) (exec i s)

/-- R29, R146: no instruction and no step reads or writes CPSR.DIT for its result. That the predicates of the
environment, when free, do not look at it is the model's choice (log 25, DEDUCED from R146); R33 leaves open what they
read. -/
def Obligations.DitActsOnNothing : Prop :=
  ∀ (s : State) (b : Bool),
    (∀ i : Instr, exec i { s with dit := b } = mapNext (fun t => { t with dit := b }) (exec i s)) ∧
    step { s with dit := b } = mapNext (fun t => { t with dit := b }) (step s)

/-- R139: in the Unindexed encodings all values of `imm8` behave alike, but that a fault records the word it stood in;
the field is kept in `ThisInstr()`, and the disassembler shows it. -/
def Obligations.UnindexedIgnoresImm8 : Prop :=
  ∀ (cond : Cond) (rn : RegNum) (o o' : Byte) (s : State) (w : Word),
    mapInstr w (exec (.stcA1Unind cond rn o) s) = mapInstr w (exec (.stcA1Unind cond rn o') s) ∧
    mapInstr w (exec (.stcT1Unind rn o) s) = mapInstr w (exec (.stcT1Unind rn o') s) ∧
    (encode (.stcA1Unind cond rn o)).extractLsb' 0 8 = o ∧ (encode (.stcT1Unind rn o)).extractLsb' 0 8 = o ∧
    asmAddress (.stcA1Unind cond rn o) = some (.unindexed rn o.toNat) ∧
    asmAddress (.stcT1Unind rn o) = some (.unindexed rn o.toNat)

/-- 40_stc.md section 4: but for base register 15, each T1 pattern whose condition passes behaves exactly as the A1
encoding of the same name, ITSTATE apart: it ends as the A1 encoding with condition AL ends in the same state made
A32. The predicates of the environment must not tell the two states apart. -/
def Obligations.T1BehavesAsA1 : Prop :=
  ∀ (i : Instr) (s : State),
    let s' := { s with iset := .a32 }
    i.iset = .t32 → (fieldsOf i).rn ≠ 15 → s.iset = .t32 → conditionPassed .al s = true →
    sysRegPermitted s' = sysRegPermitted s → hypTrapDebug s' = hypTrapDebug s →
    (∀ a : Word, memAborts s' a 4 = memAborts s a 4) →
    exec i s = mapNext (fun t => { t with iset := .t32, itstate := nextItstate s.itstate }) (exec (a1Twin i) s')

/-! ### Steps and runs -/

/-- R145: when the bytes at `pc` are those of a well-formed instruction of the current instruction set, and the PE is
to move, the step is the instruction's, on the state with its turn taken. -/
def Obligations.StepRunsTheInstructionAtPc : Prop :=
  ∀ (s : State) (i : Instr), PeReady s → i.wf = true → i.iset = s.iset →
    programBytes s s.pc.toNat 4 = wordToBytes i.iset (encode i) →
    step s = exec i (takeTurn s)

/-- The bytes at the k-th word of the program are that word's, laid out as 20_memory.md R55 says, so the machine
fetches it (R59; decisions D6, D10). -/
def Obligations.ProgramWordStandsAtItsAddress : Prop :=
  ∀ (s : State) (k : Nat) (h : k < s.program.length),
    programBytes s (s.base.toNat + 4 * k) 4 = wordToBytes s.iset s.program[k]

/-- A launch of one table word runs that word's instruction as the very next step (log 8, log 9: the launch and the
reading of a table word are the model's). -/
def Obligations.LaunchedWordRunsNext : Prop :=
  ∀ (s : State) (w : Nat) (i : Instr), decodeTableWord 32 w = some i → s.pc.toNat % 4 = 0 → s.itstate = 0#8 →
    step (s.withFetchWord 32 w) = exec i (takeTurn (s.withFetchWord 32 w))

/-- 60_exceptions.md R175: the host's move writes DBGDTRRXint, sets RXfull, uses up its turn and changes nothing else
(decision D28; the schedule is log 7). -/
def Obligations.HostWriteIsTheHostsMove : Prop :=
  ∀ (s : State) (v : Word), s.fault = none → s.refused = none → s.pc.toNat ≠ s.progEnd → nextTurn s = .hostWrite v →
    step s = .next { s with dtrrx := v, rxfull := true, schedule := s.schedule.tail }

/-- 10_state.md R37, 70 R193: a marked state and a final state have no next state; the mark a step leaves is its
outcome's, and nothing else changes (decisions D18, D22, D25; the name of the end is log 10). -/
def Obligations.MarkedAndFinalStatesDoNotStep : Prop :=
  ∀ s : State,
    (∀ f, s.fault = some f → step s = .fault f) ∧
    (∀ r, s.fault = none → s.refused = some r → step s = .refused r) ∧
    (Final s → step s = .refused .runEnded) ∧
    (∀ f, step s = .fault f → settle s (step s) = { s with fault := some f }) ∧
    (∀ r, step s = .refused r → settle s (step s) = { s with refused := some r })

/-- 10_state.md R25, R34, 20_memory.md R59: what the PE refuses before an instruction is known (decisions D10, D12;
their order is log 18, the launch test of R34 is log 16). -/
def Obligations.FetchRefusals : Prop :=
  ∀ s : State, s.fault = none → s.refused = none → s.pc.toNat ≠ s.progEnd → nextTurn s = .pe →
    (¬ PcAligned s → step s = .refused .misalignedPC) ∧
    (PcAligned s → s.pc = s.base → s.iset = .t32 → s.itstate.toNat % 16 ≠ 0 → s.itstate.toNat / 16 = 15 →
      step s = .refused .launchITSTATE) ∧
    (PcAligned s → launchITSTATEBad s = false → s.pc.toNat < s.base.toNat ∨ s.progEnd < s.pc.toNat →
      step s = .refused .fetchOutsideProgram)

/-- The invariant of the machine: every step from a state with memory in canonical form, `pc` aligned (R25) and, in
A32, ITSTATE zero (R34) gives such a state. -/
def Obligations.InvariantKeptByEveryStep : Prop :=
  ∀ s t : State, StateInv s → step s = .next t → StateInv t

/-- The state the model calls reset (log 6) has the invariant, stands on its program, and meets the launch premises
(70 R194). -/
def Obligations.InvariantAtReset : Prop :=
  StateInv State.reset ∧ OnProgram State.reset ∧ LaunchOk State.reset

/-- The parameters of 00_scope.md R6 that have a default, and the marks of 10_state.md R40, at reset (decisions D4, D5,
D14, D15; everything else there is log 6). -/
def Obligations.ResetHasTheSpecsDefaults : Prop :=
  State.reset.fault = none ∧ State.reset.refused = none ∧ State.reset.params.cuStcPc = .refuse ∧
  State.reset.params.condFailPolicy = .either ∧ State.reset.params.dccModel = .rxfull ∧
  State.reset.params.bigEndData = false ∧ State.reset.pc = State.reset.base

/-- R38: what no agent writes stays as launched: instruction set state, flags, CPSR.DIT, mode, security state,
program, base, parameters, marks; the program's bytes stay (20_memory.md R65); and DBGDTRRXint changes only when the
host moves. -/
def Obligations.NoStepWritesTheLaunchValues : Prop :=
  ∀ s t : State, step s = .next t →
    t.iset = s.iset ∧ t.flagN = s.flagN ∧ t.flagZ = s.flagZ ∧ t.flagC = s.flagC ∧ t.flagV = s.flagV ∧
    t.dit = s.dit ∧ t.mode = s.mode ∧ t.nonsecure = s.nonsecure ∧ t.program = s.program ∧ t.base = s.base ∧
    t.params = s.params ∧ t.fault = none ∧ t.refused = none ∧
    (∀ a : Nat, s.base.toNat ≤ a → a < s.progEnd → t.readByte a = s.readByte a) ∧
    (t.dtrrx ≠ s.dtrrx → ∃ v, nextTurn s = .hostWrite v ∧ t.dtrrx = v)

/-- From a state that stands on its program (70 R191, R194), every step stays on it, and the refusals `MisalignedPC`
and `FetchOutsideProgram` do not occur (10_state.md R25, 20_memory.md R59); nor does `PCWrap` where the program ends
below 2^32 (R25; where it ends at 2^32 its last instruction is refused as `PCWrap`, log 30). -/
def Obligations.StepsStayOnTheProgram : Prop :=
  ∀ s : State, OnProgram s →
    (∀ t, step s = .next t → OnProgram t) ∧
    (s.refused = none → step s ≠ .refused .misalignedPC ∧ step s ≠ .refused .fetchOutsideProgram) ∧
    (s.refused = none → s.progEnd < 2 ^ 32 → step s ≠ .refused .pcWrap)

/-- Every run is finite: `pc` only rises (R24), never wraps (R25), and the host's turns are used up (log 7); so from
any state the machine stops within the steps `remaining` counts. -/
def Obligations.EveryRunEnds : Prop :=
  ∀ s t : State, Host.Core.run Sys2Proof.core (remaining s) s ≠ .next t

/-! ### Length -/

/-- R80: whatever bytes decode, the instruction takes exactly four of them: in A32 its word, in T32 two halfwords, the
first holding bits 31:16 of the diagram and the second bits 15:0. The order of the bytes inside the word or the halfword
is left open here (it is `DecodeBytesOfEncodedInstruction`). -/
def Obligations.EveryEncodingIsFourBytes : Prop :=
  ∀ (iset : InstrSet) (bytes rest : List Byte) (i : Instr), decodeBytes iset bytes = .ok (i, rest) →
    ∃ b0 b1 b2 b3 : Byte, bytes = [b0, b1, b2, b3] ++ rest ∧
      (iset = .a32 → b3 ++ b2 ++ b1 ++ b0 = encode i ∨ b0 ++ b1 ++ b2 ++ b3 = encode i) ∧
      (iset = .t32 →
        (b1 ++ b0 = (encode i).extractLsb' 16 16 ∨ b0 ++ b1 = (encode i).extractLsb' 16 16) ∧
        (b3 ++ b2 = (encode i).extractLsb' 0 16 ∨ b2 ++ b3 = (encode i).extractLsb' 0 16))
end

