-- ==== Sys2Proof/Laws/Decode.lean ====
section
/-! SUPPORT. The fields of an encoded word and the word of decoded fields, the two halves of the round trips. -/

namespace Sys2Proof

@[simp] theorem Cond.ofBits_toBits (c : Cond) : Cond.ofBits c.toBits = c := by
  cases c <;> rfl

@[simp] theorem Cond.toBits_ofBits : ∀ b : BitVec 4, (Cond.ofBits b).toBits = b := by
  decide

section pack
variable (top : BitVec 4) (p u w : Bool) (rn : RegNum) (imm8 : Byte)

@[simp] theorem wordP_packWord : wordP (packWord top p u w rn imm8) = p := by
  simp [wordP, packWord]

@[simp] theorem wordU_packWord : wordU (packWord top p u w rn imm8) = u := by
  simp [wordU, packWord]

@[simp] theorem wordW_packWord : wordW (packWord top p u w rn imm8) = w := by
  simp [wordW, packWord]

@[simp] theorem wordImm8_packWord : wordImm8 (packWord top p u w rn imm8) = imm8 := by
  apply BitVec.eq_of_getLsbD_eq
  intro i hi
  interval_cases i <;> simp [wordImm8, packWord]

@[simp] theorem wordCond_packWord : wordCond (packWord top p u w rn imm8) = top := by
  apply BitVec.eq_of_getLsbD_eq
  intro i hi
  interval_cases i <;> simp [wordCond, packWord]

@[simp] theorem wordRn_packWord : wordRn (packWord top p u w rn imm8) = rn := by
  have h : (packWord top p u w rn imm8).extractLsb' 16 4 = BitVec.ofNat 4 rn.val := by
    apply BitVec.eq_of_getLsbD_eq
    intro i hi
    interval_cases i <;> simp [packWord]
  rw [wordRn, h]
  simp

/-- A packed word has the constant bits of class A1. -/
theorem packWord_and_maskA1 :
    packWord top p u w rn imm8 &&& 0x0E50FF00#32 = 0x0C005E00#32 := by
  apply BitVec.eq_of_getLsbD_eq
  intro i hi
  interval_cases i <;> simp [packWord]

/-- A word packed under 1110 has the constant bits of class T1. -/
theorem packWord_and_maskT1 :
    packWord 0b1110#4 p u w rn imm8 &&& 0xFE50FF00#32 = 0xEC005E00#32 := by
  apply BitVec.eq_of_getLsbD_eq
  intro i hi
  interval_cases i <;> simp [packWord]

end pack

/-- A word with the constant bits of class A1 is its own fields packed. -/
theorem packWord_of_maskA1 (w : Word) (h : w &&& 0x0E50FF00#32 = 0x0C005E00#32) :
    packWord (wordCond w) (wordP w) (wordU w) (wordW w) (wordRn w) (wordImm8 w) = w := by
  have hr : BitVec.ofNat 4 (wordRn w).val = w.extractLsb' 16 4 := by
    apply BitVec.eq_of_toNat_eq
    simp [wordRn]
  have hb := fun i => congrArg (fun v => BitVec.getLsbD v i) h
  apply BitVec.eq_of_getLsbD_eq
  intro i hi
  have hbi := hb i
  clear hb h
  simp only [packWord, hr]
  interval_cases i <;> simp [wordCond, wordP, wordU, wordW, wordImm8] at hbi ⊢ <;> simp_all

/-- The constant bits of class T1 are those of class A1 with 1110 above them (30_encoding.md R82). -/
theorem maskT1_iff (w : Word) :
    w &&& 0xFE50FF00#32 = 0xEC005E00#32 ↔
      w &&& 0x0E50FF00#32 = 0x0C005E00#32 ∧ wordCond w = 0b1110#4 := by
  constructor
  · intro h
    have hb := fun i => congrArg (fun v => BitVec.getLsbD v i) h
    constructor
    · apply BitVec.eq_of_getLsbD_eq
      intro i hi
      have hbi := hb i
      clear hb h
      interval_cases i <;> simp at hbi ⊢ <;> simp_all
    · apply BitVec.eq_of_getLsbD_eq
      intro i hi
      have hbi := hb (28 + i)
      clear hb h
      interval_cases i <;> simp [wordCond] at hbi ⊢ <;> simp_all
  · rintro ⟨h, hc⟩
    rw [← packWord_of_maskA1 w h, hc]
    exact packWord_and_maskT1 ..

/-- Every row of class A1 keeps the fields it was selected by. -/
theorem encode_rowA1 (cond : Cond) (p u w : Bool) (rn : RegNum) (imm8 : Byte) :
    encode (rowA1 cond p u w rn imm8) = packWord cond.toBits p u w rn imm8 := by
  cases p <;> cases u <;> cases w <;> rfl

/-- Every row of class T1 keeps the fields it was selected by. -/
theorem encode_rowT1 (p u w : Bool) (rn : RegNum) (imm8 : Byte) :
    encode (rowT1 p u w rn imm8) = packWord 0b1110#4 p u w rn imm8 := by
  cases p <;> cases u <;> cases w <;> rfl

@[simp] theorem rowA1_iset (cond : Cond) (p u w : Bool) (rn : RegNum) (imm8 : Byte) :
    (rowA1 cond p u w rn imm8).iset = .a32 := by
  cases p <;> cases u <;> cases w <;> rfl

@[simp] theorem rowT1_iset (p u w : Bool) (rn : RegNum) (imm8 : Byte) :
    (rowT1 p u w rn imm8).iset = .t32 := by
  cases p <;> cases u <;> cases w <;> rfl

theorem rowA1_wf (cond : Cond) (p u w : Bool) (rn : RegNum) (imm8 : Byte) :
    (rowA1 cond p u w rn imm8).wf = (cond != .nv) := by
  cases p <;> cases u <;> cases w <;> rfl

theorem rowT1_wf (p u w : Bool) (rn : RegNum) (imm8 : Byte) :
    (rowT1 p u w rn imm8).wf = true := by
  cases p <;> cases u <;> cases w <;> rfl

/-- Decoding packed fields in A32 selects their row. -/
theorem decodeA1_packWord (cond : Cond) (h : cond ≠ .nv) (p u w : Bool) (rn : RegNum) (imm8 : Byte) :
    decodeA1 (packWord cond.toBits p u w rn imm8) = some (rowA1 cond p u w rn imm8) := by
  have hc : cond.toBits ≠ 0b1111#4 := by cases cond <;> first | exact absurd rfl h | decide
  simp [decodeA1, isClassA1, packWord_and_maskA1, hc]

/-- Decoding packed fields in T32 selects their row. -/
theorem decodeT1_packWord (p u w : Bool) (rn : RegNum) (imm8 : Byte) :
    decodeT1 (packWord 0b1110#4 p u w rn imm8) = some (rowT1 p u w rn imm8) := by
  simp [decodeT1, isClassT1, packWord_and_maskT1]

/-- A word is its four bytes joined. -/
@[simp] theorem joinBytes_extract (w : Word) :
    joinBytes (w.extractLsb' 0 8) (w.extractLsb' 8 8) (w.extractLsb' 16 8) (w.extractLsb' 24 8) = w := by
  apply BitVec.eq_of_getLsbD_eq
  intro i hi
  interval_cases i <;> simp [joinBytes]

/-- The first halfword of a T1 word announces a 32-bit instruction (30_encoding.md R88). -/
theorem firstOf32_of_maskT1 (w : Word) (h : w &&& 0xFE50FF00#32 = 0xEC005E00#32) :
    firstOf32 (joinHalfword (w.extractLsb' 16 8) (w.extractLsb' 24 8)) = true := by
  have ht : (joinHalfword (w.extractLsb' 16 8) (w.extractLsb' 24 8)).extractLsb' 11 5 = 0b11101#5 := by
    have hb := fun i => congrArg (fun v => BitVec.getLsbD v i) h
    apply BitVec.eq_of_getLsbD_eq
    intro i hi
    have hbi := hb (27 + i)
    clear hb h
    interval_cases i <;> simp [joinHalfword] at hbi ⊢ <;> simp_all
  simp [firstOf32, ht]

end Sys2Proof
end

