-- ==== Sys2Proof/Laws/State.lean ====
section
/-! SUPPORT. One lemma per field per update of the state, so that no later proof unfolds a record update. -/

namespace Sys2Proof.Machine

section withX
variable (s : State) (v : Vector Word 15)

@[simp] theorem State.withX_x : (s.withX v).x = v := rfl
@[simp] theorem State.withX_pc : (s.withX v).pc = s.pc := rfl
@[simp] theorem State.withX_iset : (s.withX v).iset = s.iset := rfl
@[simp] theorem State.withX_flagN : (s.withX v).flagN = s.flagN := rfl
@[simp] theorem State.withX_flagZ : (s.withX v).flagZ = s.flagZ := rfl
@[simp] theorem State.withX_flagC : (s.withX v).flagC = s.flagC := rfl
@[simp] theorem State.withX_flagV : (s.withX v).flagV = s.flagV := rfl
@[simp] theorem State.withX_itstate : (s.withX v).itstate = s.itstate := rfl
@[simp] theorem State.withX_dit : (s.withX v).dit = s.dit := rfl
@[simp] theorem State.withX_dtrrx : (s.withX v).dtrrx = s.dtrrx := rfl
@[simp] theorem State.withX_rxfull : (s.withX v).rxfull = s.rxfull := rfl
@[simp] theorem State.withX_mode : (s.withX v).mode = s.mode := rfl
@[simp] theorem State.withX_nonsecure : (s.withX v).nonsecure = s.nonsecure := rfl
@[simp] theorem State.withX_mem : (s.withX v).mem = s.mem := rfl
@[simp] theorem State.withX_fault : (s.withX v).fault = s.fault := rfl
@[simp] theorem State.withX_refused : (s.withX v).refused = s.refused := rfl
@[simp] theorem State.withX_program : (s.withX v).program = s.program := rfl
@[simp] theorem State.withX_base : (s.withX v).base = s.base := rfl
@[simp] theorem State.withX_params : (s.withX v).params = s.params := rfl
@[simp] theorem State.withX_schedule : (s.withX v).schedule = s.schedule := rfl
@[simp] theorem State.withX_draws : (s.withX v).draws = s.draws := rfl

end withX

section withPc
variable (s : State) (v : Word)

@[simp] theorem State.withPc_x : (s.withPc v).x = s.x := rfl
@[simp] theorem State.withPc_pc : (s.withPc v).pc = v := rfl
@[simp] theorem State.withPc_iset : (s.withPc v).iset = s.iset := rfl
@[simp] theorem State.withPc_flagN : (s.withPc v).flagN = s.flagN := rfl
@[simp] theorem State.withPc_flagZ : (s.withPc v).flagZ = s.flagZ := rfl
@[simp] theorem State.withPc_flagC : (s.withPc v).flagC = s.flagC := rfl
@[simp] theorem State.withPc_flagV : (s.withPc v).flagV = s.flagV := rfl
@[simp] theorem State.withPc_itstate : (s.withPc v).itstate = s.itstate := rfl
@[simp] theorem State.withPc_dit : (s.withPc v).dit = s.dit := rfl
@[simp] theorem State.withPc_dtrrx : (s.withPc v).dtrrx = s.dtrrx := rfl
@[simp] theorem State.withPc_rxfull : (s.withPc v).rxfull = s.rxfull := rfl
@[simp] theorem State.withPc_mode : (s.withPc v).mode = s.mode := rfl
@[simp] theorem State.withPc_nonsecure : (s.withPc v).nonsecure = s.nonsecure := rfl
@[simp] theorem State.withPc_mem : (s.withPc v).mem = s.mem := rfl
@[simp] theorem State.withPc_fault : (s.withPc v).fault = s.fault := rfl
@[simp] theorem State.withPc_refused : (s.withPc v).refused = s.refused := rfl
@[simp] theorem State.withPc_program : (s.withPc v).program = s.program := rfl
@[simp] theorem State.withPc_base : (s.withPc v).base = s.base := rfl
@[simp] theorem State.withPc_params : (s.withPc v).params = s.params := rfl
@[simp] theorem State.withPc_schedule : (s.withPc v).schedule = s.schedule := rfl
@[simp] theorem State.withPc_draws : (s.withPc v).draws = s.draws := rfl

end withPc

section withItstate
variable (s : State) (v : BitVec 8)

@[simp] theorem State.withItstate_x : (s.withItstate v).x = s.x := rfl
@[simp] theorem State.withItstate_pc : (s.withItstate v).pc = s.pc := rfl
@[simp] theorem State.withItstate_iset : (s.withItstate v).iset = s.iset := rfl
@[simp] theorem State.withItstate_flagN : (s.withItstate v).flagN = s.flagN := rfl
@[simp] theorem State.withItstate_flagZ : (s.withItstate v).flagZ = s.flagZ := rfl
@[simp] theorem State.withItstate_flagC : (s.withItstate v).flagC = s.flagC := rfl
@[simp] theorem State.withItstate_flagV : (s.withItstate v).flagV = s.flagV := rfl
@[simp] theorem State.withItstate_itstate : (s.withItstate v).itstate = v := rfl
@[simp] theorem State.withItstate_dit : (s.withItstate v).dit = s.dit := rfl
@[simp] theorem State.withItstate_dtrrx : (s.withItstate v).dtrrx = s.dtrrx := rfl
@[simp] theorem State.withItstate_rxfull : (s.withItstate v).rxfull = s.rxfull := rfl
@[simp] theorem State.withItstate_mode : (s.withItstate v).mode = s.mode := rfl
@[simp] theorem State.withItstate_nonsecure : (s.withItstate v).nonsecure = s.nonsecure := rfl
@[simp] theorem State.withItstate_mem : (s.withItstate v).mem = s.mem := rfl
@[simp] theorem State.withItstate_fault : (s.withItstate v).fault = s.fault := rfl
@[simp] theorem State.withItstate_refused : (s.withItstate v).refused = s.refused := rfl
@[simp] theorem State.withItstate_program : (s.withItstate v).program = s.program := rfl
@[simp] theorem State.withItstate_base : (s.withItstate v).base = s.base := rfl
@[simp] theorem State.withItstate_params : (s.withItstate v).params = s.params := rfl
@[simp] theorem State.withItstate_schedule : (s.withItstate v).schedule = s.schedule := rfl
@[simp] theorem State.withItstate_draws : (s.withItstate v).draws = s.draws := rfl

end withItstate

section withDtrrx
variable (s : State) (v : Word)

@[simp] theorem State.withDtrrx_x : (s.withDtrrx v).x = s.x := rfl
@[simp] theorem State.withDtrrx_pc : (s.withDtrrx v).pc = s.pc := rfl
@[simp] theorem State.withDtrrx_iset : (s.withDtrrx v).iset = s.iset := rfl
@[simp] theorem State.withDtrrx_flagN : (s.withDtrrx v).flagN = s.flagN := rfl
@[simp] theorem State.withDtrrx_flagZ : (s.withDtrrx v).flagZ = s.flagZ := rfl
@[simp] theorem State.withDtrrx_flagC : (s.withDtrrx v).flagC = s.flagC := rfl
@[simp] theorem State.withDtrrx_flagV : (s.withDtrrx v).flagV = s.flagV := rfl
@[simp] theorem State.withDtrrx_itstate : (s.withDtrrx v).itstate = s.itstate := rfl
@[simp] theorem State.withDtrrx_dit : (s.withDtrrx v).dit = s.dit := rfl
@[simp] theorem State.withDtrrx_dtrrx : (s.withDtrrx v).dtrrx = v := rfl
@[simp] theorem State.withDtrrx_rxfull : (s.withDtrrx v).rxfull = s.rxfull := rfl
@[simp] theorem State.withDtrrx_mode : (s.withDtrrx v).mode = s.mode := rfl
@[simp] theorem State.withDtrrx_nonsecure : (s.withDtrrx v).nonsecure = s.nonsecure := rfl
@[simp] theorem State.withDtrrx_mem : (s.withDtrrx v).mem = s.mem := rfl
@[simp] theorem State.withDtrrx_fault : (s.withDtrrx v).fault = s.fault := rfl
@[simp] theorem State.withDtrrx_refused : (s.withDtrrx v).refused = s.refused := rfl
@[simp] theorem State.withDtrrx_program : (s.withDtrrx v).program = s.program := rfl
@[simp] theorem State.withDtrrx_base : (s.withDtrrx v).base = s.base := rfl
@[simp] theorem State.withDtrrx_params : (s.withDtrrx v).params = s.params := rfl
@[simp] theorem State.withDtrrx_schedule : (s.withDtrrx v).schedule = s.schedule := rfl
@[simp] theorem State.withDtrrx_draws : (s.withDtrrx v).draws = s.draws := rfl

end withDtrrx

section withRxfull
variable (s : State) (v : Bool)

@[simp] theorem State.withRxfull_x : (s.withRxfull v).x = s.x := rfl
@[simp] theorem State.withRxfull_pc : (s.withRxfull v).pc = s.pc := rfl
@[simp] theorem State.withRxfull_iset : (s.withRxfull v).iset = s.iset := rfl
@[simp] theorem State.withRxfull_flagN : (s.withRxfull v).flagN = s.flagN := rfl
@[simp] theorem State.withRxfull_flagZ : (s.withRxfull v).flagZ = s.flagZ := rfl
@[simp] theorem State.withRxfull_flagC : (s.withRxfull v).flagC = s.flagC := rfl
@[simp] theorem State.withRxfull_flagV : (s.withRxfull v).flagV = s.flagV := rfl
@[simp] theorem State.withRxfull_itstate : (s.withRxfull v).itstate = s.itstate := rfl
@[simp] theorem State.withRxfull_dit : (s.withRxfull v).dit = s.dit := rfl
@[simp] theorem State.withRxfull_dtrrx : (s.withRxfull v).dtrrx = s.dtrrx := rfl
@[simp] theorem State.withRxfull_rxfull : (s.withRxfull v).rxfull = v := rfl
@[simp] theorem State.withRxfull_mode : (s.withRxfull v).mode = s.mode := rfl
@[simp] theorem State.withRxfull_nonsecure : (s.withRxfull v).nonsecure = s.nonsecure := rfl
@[simp] theorem State.withRxfull_mem : (s.withRxfull v).mem = s.mem := rfl
@[simp] theorem State.withRxfull_fault : (s.withRxfull v).fault = s.fault := rfl
@[simp] theorem State.withRxfull_refused : (s.withRxfull v).refused = s.refused := rfl
@[simp] theorem State.withRxfull_program : (s.withRxfull v).program = s.program := rfl
@[simp] theorem State.withRxfull_base : (s.withRxfull v).base = s.base := rfl
@[simp] theorem State.withRxfull_params : (s.withRxfull v).params = s.params := rfl
@[simp] theorem State.withRxfull_schedule : (s.withRxfull v).schedule = s.schedule := rfl
@[simp] theorem State.withRxfull_draws : (s.withRxfull v).draws = s.draws := rfl

end withRxfull

section withMem
variable (s : State) (v : Memory)

@[simp] theorem State.withMem_x : (s.withMem v).x = s.x := rfl
@[simp] theorem State.withMem_pc : (s.withMem v).pc = s.pc := rfl
@[simp] theorem State.withMem_iset : (s.withMem v).iset = s.iset := rfl
@[simp] theorem State.withMem_flagN : (s.withMem v).flagN = s.flagN := rfl
@[simp] theorem State.withMem_flagZ : (s.withMem v).flagZ = s.flagZ := rfl
@[simp] theorem State.withMem_flagC : (s.withMem v).flagC = s.flagC := rfl
@[simp] theorem State.withMem_flagV : (s.withMem v).flagV = s.flagV := rfl
@[simp] theorem State.withMem_itstate : (s.withMem v).itstate = s.itstate := rfl
@[simp] theorem State.withMem_dit : (s.withMem v).dit = s.dit := rfl
@[simp] theorem State.withMem_dtrrx : (s.withMem v).dtrrx = s.dtrrx := rfl
@[simp] theorem State.withMem_rxfull : (s.withMem v).rxfull = s.rxfull := rfl
@[simp] theorem State.withMem_mode : (s.withMem v).mode = s.mode := rfl
@[simp] theorem State.withMem_nonsecure : (s.withMem v).nonsecure = s.nonsecure := rfl
@[simp] theorem State.withMem_mem : (s.withMem v).mem = v := rfl
@[simp] theorem State.withMem_fault : (s.withMem v).fault = s.fault := rfl
@[simp] theorem State.withMem_refused : (s.withMem v).refused = s.refused := rfl
@[simp] theorem State.withMem_program : (s.withMem v).program = s.program := rfl
@[simp] theorem State.withMem_base : (s.withMem v).base = s.base := rfl
@[simp] theorem State.withMem_params : (s.withMem v).params = s.params := rfl
@[simp] theorem State.withMem_schedule : (s.withMem v).schedule = s.schedule := rfl
@[simp] theorem State.withMem_draws : (s.withMem v).draws = s.draws := rfl

end withMem

section withFault
variable (s : State) (v : Option Fault)

@[simp] theorem State.withFault_x : (s.withFault v).x = s.x := rfl
@[simp] theorem State.withFault_pc : (s.withFault v).pc = s.pc := rfl
@[simp] theorem State.withFault_iset : (s.withFault v).iset = s.iset := rfl
@[simp] theorem State.withFault_flagN : (s.withFault v).flagN = s.flagN := rfl
@[simp] theorem State.withFault_flagZ : (s.withFault v).flagZ = s.flagZ := rfl
@[simp] theorem State.withFault_flagC : (s.withFault v).flagC = s.flagC := rfl
@[simp] theorem State.withFault_flagV : (s.withFault v).flagV = s.flagV := rfl
@[simp] theorem State.withFault_itstate : (s.withFault v).itstate = s.itstate := rfl
@[simp] theorem State.withFault_dit : (s.withFault v).dit = s.dit := rfl
@[simp] theorem State.withFault_dtrrx : (s.withFault v).dtrrx = s.dtrrx := rfl
@[simp] theorem State.withFault_rxfull : (s.withFault v).rxfull = s.rxfull := rfl
@[simp] theorem State.withFault_mode : (s.withFault v).mode = s.mode := rfl
@[simp] theorem State.withFault_nonsecure : (s.withFault v).nonsecure = s.nonsecure := rfl
@[simp] theorem State.withFault_mem : (s.withFault v).mem = s.mem := rfl
@[simp] theorem State.withFault_fault : (s.withFault v).fault = v := rfl
@[simp] theorem State.withFault_refused : (s.withFault v).refused = s.refused := rfl
@[simp] theorem State.withFault_program : (s.withFault v).program = s.program := rfl
@[simp] theorem State.withFault_base : (s.withFault v).base = s.base := rfl
@[simp] theorem State.withFault_params : (s.withFault v).params = s.params := rfl
@[simp] theorem State.withFault_schedule : (s.withFault v).schedule = s.schedule := rfl
@[simp] theorem State.withFault_draws : (s.withFault v).draws = s.draws := rfl

end withFault

section withRefused
variable (s : State) (v : Option Refusal)

@[simp] theorem State.withRefused_x : (s.withRefused v).x = s.x := rfl
@[simp] theorem State.withRefused_pc : (s.withRefused v).pc = s.pc := rfl
@[simp] theorem State.withRefused_iset : (s.withRefused v).iset = s.iset := rfl
@[simp] theorem State.withRefused_flagN : (s.withRefused v).flagN = s.flagN := rfl
@[simp] theorem State.withRefused_flagZ : (s.withRefused v).flagZ = s.flagZ := rfl
@[simp] theorem State.withRefused_flagC : (s.withRefused v).flagC = s.flagC := rfl
@[simp] theorem State.withRefused_flagV : (s.withRefused v).flagV = s.flagV := rfl
@[simp] theorem State.withRefused_itstate : (s.withRefused v).itstate = s.itstate := rfl
@[simp] theorem State.withRefused_dit : (s.withRefused v).dit = s.dit := rfl
@[simp] theorem State.withRefused_dtrrx : (s.withRefused v).dtrrx = s.dtrrx := rfl
@[simp] theorem State.withRefused_rxfull : (s.withRefused v).rxfull = s.rxfull := rfl
@[simp] theorem State.withRefused_mode : (s.withRefused v).mode = s.mode := rfl
@[simp] theorem State.withRefused_nonsecure : (s.withRefused v).nonsecure = s.nonsecure := rfl
@[simp] theorem State.withRefused_mem : (s.withRefused v).mem = s.mem := rfl
@[simp] theorem State.withRefused_fault : (s.withRefused v).fault = s.fault := rfl
@[simp] theorem State.withRefused_refused : (s.withRefused v).refused = v := rfl
@[simp] theorem State.withRefused_program : (s.withRefused v).program = s.program := rfl
@[simp] theorem State.withRefused_base : (s.withRefused v).base = s.base := rfl
@[simp] theorem State.withRefused_params : (s.withRefused v).params = s.params := rfl
@[simp] theorem State.withRefused_schedule : (s.withRefused v).schedule = s.schedule := rfl
@[simp] theorem State.withRefused_draws : (s.withRefused v).draws = s.draws := rfl

end withRefused

section withSchedule
variable (s : State) (v : List Turn)

@[simp] theorem State.withSchedule_x : (s.withSchedule v).x = s.x := rfl
@[simp] theorem State.withSchedule_pc : (s.withSchedule v).pc = s.pc := rfl
@[simp] theorem State.withSchedule_iset : (s.withSchedule v).iset = s.iset := rfl
@[simp] theorem State.withSchedule_flagN : (s.withSchedule v).flagN = s.flagN := rfl
@[simp] theorem State.withSchedule_flagZ : (s.withSchedule v).flagZ = s.flagZ := rfl
@[simp] theorem State.withSchedule_flagC : (s.withSchedule v).flagC = s.flagC := rfl
@[simp] theorem State.withSchedule_flagV : (s.withSchedule v).flagV = s.flagV := rfl
@[simp] theorem State.withSchedule_itstate : (s.withSchedule v).itstate = s.itstate := rfl
@[simp] theorem State.withSchedule_dit : (s.withSchedule v).dit = s.dit := rfl
@[simp] theorem State.withSchedule_dtrrx : (s.withSchedule v).dtrrx = s.dtrrx := rfl
@[simp] theorem State.withSchedule_rxfull : (s.withSchedule v).rxfull = s.rxfull := rfl
@[simp] theorem State.withSchedule_mode : (s.withSchedule v).mode = s.mode := rfl
@[simp] theorem State.withSchedule_nonsecure : (s.withSchedule v).nonsecure = s.nonsecure := rfl
@[simp] theorem State.withSchedule_mem : (s.withSchedule v).mem = s.mem := rfl
@[simp] theorem State.withSchedule_fault : (s.withSchedule v).fault = s.fault := rfl
@[simp] theorem State.withSchedule_refused : (s.withSchedule v).refused = s.refused := rfl
@[simp] theorem State.withSchedule_program : (s.withSchedule v).program = s.program := rfl
@[simp] theorem State.withSchedule_base : (s.withSchedule v).base = s.base := rfl
@[simp] theorem State.withSchedule_params : (s.withSchedule v).params = s.params := rfl
@[simp] theorem State.withSchedule_schedule : (s.withSchedule v).schedule = v := rfl
@[simp] theorem State.withSchedule_draws : (s.withSchedule v).draws = s.draws := rfl

end withSchedule

section withDraws
variable (s : State) (v : Nat)

@[simp] theorem State.withDraws_x : (s.withDraws v).x = s.x := rfl
@[simp] theorem State.withDraws_pc : (s.withDraws v).pc = s.pc := rfl
@[simp] theorem State.withDraws_iset : (s.withDraws v).iset = s.iset := rfl
@[simp] theorem State.withDraws_flagN : (s.withDraws v).flagN = s.flagN := rfl
@[simp] theorem State.withDraws_flagZ : (s.withDraws v).flagZ = s.flagZ := rfl
@[simp] theorem State.withDraws_flagC : (s.withDraws v).flagC = s.flagC := rfl
@[simp] theorem State.withDraws_flagV : (s.withDraws v).flagV = s.flagV := rfl
@[simp] theorem State.withDraws_itstate : (s.withDraws v).itstate = s.itstate := rfl
@[simp] theorem State.withDraws_dit : (s.withDraws v).dit = s.dit := rfl
@[simp] theorem State.withDraws_dtrrx : (s.withDraws v).dtrrx = s.dtrrx := rfl
@[simp] theorem State.withDraws_rxfull : (s.withDraws v).rxfull = s.rxfull := rfl
@[simp] theorem State.withDraws_mode : (s.withDraws v).mode = s.mode := rfl
@[simp] theorem State.withDraws_nonsecure : (s.withDraws v).nonsecure = s.nonsecure := rfl
@[simp] theorem State.withDraws_mem : (s.withDraws v).mem = s.mem := rfl
@[simp] theorem State.withDraws_fault : (s.withDraws v).fault = s.fault := rfl
@[simp] theorem State.withDraws_refused : (s.withDraws v).refused = s.refused := rfl
@[simp] theorem State.withDraws_program : (s.withDraws v).program = s.program := rfl
@[simp] theorem State.withDraws_base : (s.withDraws v).base = s.base := rfl
@[simp] theorem State.withDraws_params : (s.withDraws v).params = s.params := rfl
@[simp] theorem State.withDraws_schedule : (s.withDraws v).schedule = s.schedule := rfl
@[simp] theorem State.withDraws_draws : (s.withDraws v).draws = v := rfl

end withDraws

end Sys2Proof.Machine
end

