-- ==== Sys2Proof/Laws/Fields.lean ====
section
/-! SUPPORT. What each shared operation leaves unchanged, one lemma per field. -/

namespace Sys2Proof.Machine

section itAdvance
variable (s : State)

@[simp] theorem itAdvance_x : (itAdvance s).x = s.x := by
  unfold itAdvance; split <;> rfl
@[simp] theorem itAdvance_pc : (itAdvance s).pc = s.pc := by
  unfold itAdvance; split <;> rfl
@[simp] theorem itAdvance_iset : (itAdvance s).iset = s.iset := by
  unfold itAdvance; split <;> rfl
@[simp] theorem itAdvance_flagN : (itAdvance s).flagN = s.flagN := by
  unfold itAdvance; split <;> rfl
@[simp] theorem itAdvance_flagZ : (itAdvance s).flagZ = s.flagZ := by
  unfold itAdvance; split <;> rfl
@[simp] theorem itAdvance_flagC : (itAdvance s).flagC = s.flagC := by
  unfold itAdvance; split <;> rfl
@[simp] theorem itAdvance_flagV : (itAdvance s).flagV = s.flagV := by
  unfold itAdvance; split <;> rfl
@[simp] theorem itAdvance_dit : (itAdvance s).dit = s.dit := by
  unfold itAdvance; split <;> rfl
@[simp] theorem itAdvance_dtrrx : (itAdvance s).dtrrx = s.dtrrx := by
  unfold itAdvance; split <;> rfl
@[simp] theorem itAdvance_rxfull : (itAdvance s).rxfull = s.rxfull := by
  unfold itAdvance; split <;> rfl
@[simp] theorem itAdvance_mode : (itAdvance s).mode = s.mode := by
  unfold itAdvance; split <;> rfl
@[simp] theorem itAdvance_nonsecure : (itAdvance s).nonsecure = s.nonsecure := by
  unfold itAdvance; split <;> rfl
@[simp] theorem itAdvance_mem : (itAdvance s).mem = s.mem := by
  unfold itAdvance; split <;> rfl
@[simp] theorem itAdvance_fault : (itAdvance s).fault = s.fault := by
  unfold itAdvance; split <;> rfl
@[simp] theorem itAdvance_refused : (itAdvance s).refused = s.refused := by
  unfold itAdvance; split <;> rfl
@[simp] theorem itAdvance_program : (itAdvance s).program = s.program := by
  unfold itAdvance; split <;> rfl
@[simp] theorem itAdvance_base : (itAdvance s).base = s.base := by
  unfold itAdvance; split <;> rfl
@[simp] theorem itAdvance_params : (itAdvance s).params = s.params := by
  unfold itAdvance; split <;> rfl
@[simp] theorem itAdvance_schedule : (itAdvance s).schedule = s.schedule := by
  unfold itAdvance; split <;> rfl
@[simp] theorem itAdvance_draws : (itAdvance s).draws = s.draws := by
  unfold itAdvance; split <;> rfl

end itAdvance

section writeReg
variable (s : State) (n : RegNum) (v : Word)

@[simp] theorem writeReg_pc : (writeReg s n v).pc = s.pc := by
  unfold writeReg; split <;> rfl
@[simp] theorem writeReg_iset : (writeReg s n v).iset = s.iset := by
  unfold writeReg; split <;> rfl
@[simp] theorem writeReg_flagN : (writeReg s n v).flagN = s.flagN := by
  unfold writeReg; split <;> rfl
@[simp] theorem writeReg_flagZ : (writeReg s n v).flagZ = s.flagZ := by
  unfold writeReg; split <;> rfl
@[simp] theorem writeReg_flagC : (writeReg s n v).flagC = s.flagC := by
  unfold writeReg; split <;> rfl
@[simp] theorem writeReg_flagV : (writeReg s n v).flagV = s.flagV := by
  unfold writeReg; split <;> rfl
@[simp] theorem writeReg_itstate : (writeReg s n v).itstate = s.itstate := by
  unfold writeReg; split <;> rfl
@[simp] theorem writeReg_dit : (writeReg s n v).dit = s.dit := by
  unfold writeReg; split <;> rfl
@[simp] theorem writeReg_dtrrx : (writeReg s n v).dtrrx = s.dtrrx := by
  unfold writeReg; split <;> rfl
@[simp] theorem writeReg_rxfull : (writeReg s n v).rxfull = s.rxfull := by
  unfold writeReg; split <;> rfl
@[simp] theorem writeReg_mode : (writeReg s n v).mode = s.mode := by
  unfold writeReg; split <;> rfl
@[simp] theorem writeReg_nonsecure : (writeReg s n v).nonsecure = s.nonsecure := by
  unfold writeReg; split <;> rfl
@[simp] theorem writeReg_mem : (writeReg s n v).mem = s.mem := by
  unfold writeReg; split <;> rfl
@[simp] theorem writeReg_fault : (writeReg s n v).fault = s.fault := by
  unfold writeReg; split <;> rfl
@[simp] theorem writeReg_refused : (writeReg s n v).refused = s.refused := by
  unfold writeReg; split <;> rfl
@[simp] theorem writeReg_program : (writeReg s n v).program = s.program := by
  unfold writeReg; split <;> rfl
@[simp] theorem writeReg_base : (writeReg s n v).base = s.base := by
  unfold writeReg; split <;> rfl
@[simp] theorem writeReg_params : (writeReg s n v).params = s.params := by
  unfold writeReg; split <;> rfl
@[simp] theorem writeReg_schedule : (writeReg s n v).schedule = s.schedule := by
  unfold writeReg; split <;> rfl
@[simp] theorem writeReg_draws : (writeReg s n v).draws = s.draws := by
  unfold writeReg; split <;> rfl

end writeReg

section readDtrrx
variable (s : State)

@[simp] theorem readDtrrx_x : (readDtrrx s).2.x = s.x := by
  unfold readDtrrx; split <;> try split
  all_goals rfl
@[simp] theorem readDtrrx_pc : (readDtrrx s).2.pc = s.pc := by
  unfold readDtrrx; split <;> try split
  all_goals rfl
@[simp] theorem readDtrrx_iset : (readDtrrx s).2.iset = s.iset := by
  unfold readDtrrx; split <;> try split
  all_goals rfl
@[simp] theorem readDtrrx_flagN : (readDtrrx s).2.flagN = s.flagN := by
  unfold readDtrrx; split <;> try split
  all_goals rfl
@[simp] theorem readDtrrx_flagZ : (readDtrrx s).2.flagZ = s.flagZ := by
  unfold readDtrrx; split <;> try split
  all_goals rfl
@[simp] theorem readDtrrx_flagC : (readDtrrx s).2.flagC = s.flagC := by
  unfold readDtrrx; split <;> try split
  all_goals rfl
@[simp] theorem readDtrrx_flagV : (readDtrrx s).2.flagV = s.flagV := by
  unfold readDtrrx; split <;> try split
  all_goals rfl
@[simp] theorem readDtrrx_itstate : (readDtrrx s).2.itstate = s.itstate := by
  unfold readDtrrx; split <;> try split
  all_goals rfl
@[simp] theorem readDtrrx_dit : (readDtrrx s).2.dit = s.dit := by
  unfold readDtrrx; split <;> try split
  all_goals rfl
@[simp] theorem readDtrrx_dtrrx : (readDtrrx s).2.dtrrx = s.dtrrx := by
  unfold readDtrrx; split <;> try split
  all_goals rfl
@[simp] theorem readDtrrx_mode : (readDtrrx s).2.mode = s.mode := by
  unfold readDtrrx; split <;> try split
  all_goals rfl
@[simp] theorem readDtrrx_nonsecure : (readDtrrx s).2.nonsecure = s.nonsecure := by
  unfold readDtrrx; split <;> try split
  all_goals rfl
@[simp] theorem readDtrrx_mem : (readDtrrx s).2.mem = s.mem := by
  unfold readDtrrx; split <;> try split
  all_goals rfl
@[simp] theorem readDtrrx_fault : (readDtrrx s).2.fault = s.fault := by
  unfold readDtrrx; split <;> try split
  all_goals rfl
@[simp] theorem readDtrrx_refused : (readDtrrx s).2.refused = s.refused := by
  unfold readDtrrx; split <;> try split
  all_goals rfl
@[simp] theorem readDtrrx_program : (readDtrrx s).2.program = s.program := by
  unfold readDtrrx; split <;> try split
  all_goals rfl
@[simp] theorem readDtrrx_base : (readDtrrx s).2.base = s.base := by
  unfold readDtrrx; split <;> try split
  all_goals rfl
@[simp] theorem readDtrrx_params : (readDtrrx s).2.params = s.params := by
  unfold readDtrrx; split <;> try split
  all_goals rfl
@[simp] theorem readDtrrx_schedule : (readDtrrx s).2.schedule = s.schedule := by
  unfold readDtrrx; split <;> try split
  all_goals rfl

end readDtrrx

section hostWrite
variable (s : State) (v : Word)

@[simp] theorem hostWrite_x : (hostWrite v s).x = s.x := rfl
@[simp] theorem hostWrite_pc : (hostWrite v s).pc = s.pc := rfl
@[simp] theorem hostWrite_iset : (hostWrite v s).iset = s.iset := rfl
@[simp] theorem hostWrite_flagN : (hostWrite v s).flagN = s.flagN := rfl
@[simp] theorem hostWrite_flagZ : (hostWrite v s).flagZ = s.flagZ := rfl
@[simp] theorem hostWrite_flagC : (hostWrite v s).flagC = s.flagC := rfl
@[simp] theorem hostWrite_flagV : (hostWrite v s).flagV = s.flagV := rfl
@[simp] theorem hostWrite_itstate : (hostWrite v s).itstate = s.itstate := rfl
@[simp] theorem hostWrite_dit : (hostWrite v s).dit = s.dit := rfl
@[simp] theorem hostWrite_mode : (hostWrite v s).mode = s.mode := rfl
@[simp] theorem hostWrite_nonsecure : (hostWrite v s).nonsecure = s.nonsecure := rfl
@[simp] theorem hostWrite_mem : (hostWrite v s).mem = s.mem := rfl
@[simp] theorem hostWrite_fault : (hostWrite v s).fault = s.fault := rfl
@[simp] theorem hostWrite_refused : (hostWrite v s).refused = s.refused := rfl
@[simp] theorem hostWrite_program : (hostWrite v s).program = s.program := rfl
@[simp] theorem hostWrite_base : (hostWrite v s).base = s.base := rfl
@[simp] theorem hostWrite_params : (hostWrite v s).params = s.params := rfl
@[simp] theorem hostWrite_schedule : (hostWrite v s).schedule = s.schedule := rfl
@[simp] theorem hostWrite_draws : (hostWrite v s).draws = s.draws := rfl

end hostWrite

section takeTurn
variable (s : State)

@[simp] theorem takeTurn_x : (takeTurn s).x = s.x := rfl
@[simp] theorem takeTurn_pc : (takeTurn s).pc = s.pc := rfl
@[simp] theorem takeTurn_iset : (takeTurn s).iset = s.iset := rfl
@[simp] theorem takeTurn_flagN : (takeTurn s).flagN = s.flagN := rfl
@[simp] theorem takeTurn_flagZ : (takeTurn s).flagZ = s.flagZ := rfl
@[simp] theorem takeTurn_flagC : (takeTurn s).flagC = s.flagC := rfl
@[simp] theorem takeTurn_flagV : (takeTurn s).flagV = s.flagV := rfl
@[simp] theorem takeTurn_itstate : (takeTurn s).itstate = s.itstate := rfl
@[simp] theorem takeTurn_dit : (takeTurn s).dit = s.dit := rfl
@[simp] theorem takeTurn_dtrrx : (takeTurn s).dtrrx = s.dtrrx := rfl
@[simp] theorem takeTurn_rxfull : (takeTurn s).rxfull = s.rxfull := rfl
@[simp] theorem takeTurn_mode : (takeTurn s).mode = s.mode := rfl
@[simp] theorem takeTurn_nonsecure : (takeTurn s).nonsecure = s.nonsecure := rfl
@[simp] theorem takeTurn_mem : (takeTurn s).mem = s.mem := rfl
@[simp] theorem takeTurn_fault : (takeTurn s).fault = s.fault := rfl
@[simp] theorem takeTurn_refused : (takeTurn s).refused = s.refused := rfl
@[simp] theorem takeTurn_program : (takeTurn s).program = s.program := rfl
@[simp] theorem takeTurn_base : (takeTurn s).base = s.base := rfl
@[simp] theorem takeTurn_params : (takeTurn s).params = s.params := rfl
@[simp] theorem takeTurn_draws : (takeTurn s).draws = s.draws := rfl

end takeTurn

end Sys2Proof.Machine
end

