-- ==== Sys2Proof/Laws/Ops.lean ====
section
/-! SUPPORT. One lemma per shared operation that says everything it can do. -/

namespace Sys2Proof.Machine

@[simp] theorem andThen_next (s : State) (k : State → Outcome) : andThen (.next s) k = k s := rfl

@[simp] theorem andThen_fault (f : Fault) (k : State → Outcome) : andThen (.fault f) k = .fault f := rfl

@[simp] theorem andThen_refused (r : Refusal) (k : State → Outcome) : andThen (.refused r) k = .refused r := rfl

theorem andThen_eq_next {o : Outcome} {k : State → Outcome} {t : State} :
    andThen o k = .next t ↔ ∃ s, o = .next s ∧ k s = .next t := by
  cases o <;> simp [andThen]

/-- An exception is never a next state (60_exceptions.md R168). -/
@[simp] theorem raise_ne_next (mk : Word → Fault) (s t : State) : raise mk s ≠ .next t := by
  simp [raise]

/-- `pc` always fits: `advance` answers a next state exactly where `pc + 4` does not wrap. -/
theorem advance_eq_next {s t : State} :
    advance s = .next t ↔ s.pc.toNat + 4 < 2 ^ 32 ∧ t = itAdvance (s.withPc (s.pc + 4#32)) := by
  unfold advance
  split <;> simp_all [eq_comm]

/-- `advance` raises nothing. -/
@[simp] theorem advance_ne_fault (s : State) (f : Fault) : advance s ≠ .fault f := by
  unfold advance
  split <;> simp

/-- The refusal of `advance` is `pcWrap`. -/
theorem advance_eq_refused {s : State} {r : Refusal} :
    advance s = .refused r ↔ ¬ s.pc.toNat + 4 < 2 ^ 32 ∧ r = .pcWrap := by
  unfold advance
  split <;> simp_all [eq_comm]

theorem memWrite_eq_next {instr addr v : Word} {s t : State} :
    memWrite instr addr v s = .next t ↔
      addr.extractLsb' 0 2 = 0#2 ∧ memAborts s addr 4 = false ∧ touchesProgram s addr = false ∧
      t = s.withMem (s.mem.writeBytes addr.toNat (wordBytes s.params.bigEndData v)) := by
  unfold memWrite
  by_cases h1 : addr.extractLsb' 0 2 = 0#2
  · cases h2 : memAborts s addr 4
    · cases h3 : touchesProgram s addr <;> simp [h1, eq_comm]
    · simp [h1]
  · simp [h1]

/-- The faults of a store are DataAborts on its address (20_memory.md R53). -/
theorem memWrite_eq_fault {instr addr v : Word} {s : State} {f : Fault} (h : memWrite instr addr v s = .fault f) :
    ∃ kind, f = .dataAbort kind addr instr s.pc := by
  unfold memWrite raise at h
  split at h
  · exact ⟨_, by simpa using h.symm⟩
  · split at h
    · exact ⟨_, by simpa using h.symm⟩
    · split at h <;> simp at h

/-- The refusal of a store is `storeIntoProgram`. -/
theorem memWrite_eq_refused {instr addr v : Word} {s : State} {r : Refusal}
    (h : memWrite instr addr v s = .refused r) : r = .storeIntoProgram := by
  unfold memWrite raise at h
  split at h
  · simp at h
  · split at h
    · simp at h
    · split at h <;> simp at h
      exact h.symm

/-- With a list of regions the platform aborts exactly the accesses one of whose bytes lies in a region. -/
theorem memAborts_of_regions {s : State} {regions : List Region} (h : s.params.memAdmit = .aborts regions)
    (addr : Word) (size : Nat) :
    memAborts s addr size = true ↔
      ∃ r ∈ regions, ∃ k < size, r.base ≤ addr.toNat + k ∧ addr.toNat + k < r.base + r.size := by
  simp [memAborts, h, Region.covers]

/-- An address is aligned when its two low bits are 0 (20_memory.md R56). -/
theorem aligned_iff (addr : Word) : addr.extractLsb' 0 2 = 0#2 ↔ addr.toNat % 4 = 0 := by
  rw [← BitVec.toNat_inj]
  simp

/-- Four bytes at an aligned address stay inside the address space (20_memory.md R57). -/
theorem aligned_bound {addr : Word} (h : addr.toNat % 4 = 0) : addr.toNat + 4 ≤ 2 ^ 32 := by
  have := addr.isLt
  omega

/-- The program holds no byte outside `[Base, End)`. -/
theorem programByte_eq_none {s : State} {a : Nat} :
    programByte s a = none ↔ ¬ (s.base.toNat ≤ a ∧ a < s.progEnd) := by
  unfold programByte State.progEnd
  by_cases h : s.base.toNat ≤ a
  · by_cases hin : (a - s.base.toNat) / 4 < s.program.length
    · have hlen : (wordToBytes s.iset s.program[(a - s.base.toNat) / 4]).length = 4 := by
        cases s.iset <;> rfl
      have hm : (a - s.base.toNat) % 4 < 4 := Nat.mod_lt _ (by decide)
      simp only [if_pos h, List.getElem?_eq_getElem hin]
      rw [List.getElem?_eq_getElem (by rw [hlen]; exact hm)]
      simp
      omega
    · have hnone : s.program[(a - s.base.toNat) / 4]? = none := List.getElem?_eq_none (by omega)
      simp only [if_pos h, hnone, true_iff]
      omega
  · simp [h]

/-- A store that does not touch the program meets no byte of it. -/
theorem touchesProgram_eq_false {s : State} {addr : Word} :
    touchesProgram s addr = false ↔
      ∀ k < 4, ¬ (s.base.toNat ≤ addr.toNat + k ∧ addr.toNat + k < s.progEnd) := by
  unfold touchesProgram State.progEnd
  constructor
  · intro h k hk
    simp only [Bool.and_eq_false_iff, decide_eq_false_iff_not] at h
    omega
  · intro h
    have h0 := h 0 (by decide)
    by_cases hlt : s.base.toNat - addr.toNat < 4
    · have hk := h _ hlt
      simp only [Bool.and_eq_false_iff, decide_eq_false_iff_not]
      omega
    · simp only [Bool.and_eq_false_iff, decide_eq_false_iff_not]
      omega

/-- The registers below 15 after a register write. -/
theorem writeReg_x (s : State) (n : RegNum) (v : Word) (k : Nat) (h : k < 15) :
    (writeReg s n v).x[k] = if k = n.val then v else s.x[k] := by
  unfold writeReg
  split
  · simp only [State.withX_x, Vector.getElem_set, eq_comm]
  · rw [if_neg (by omega)]

@[simp] theorem itAdvance_itstate (s : State) :
    (itAdvance s).itstate = match s.iset with | .a32 => s.itstate | .t32 => itAdvanced s.itstate := by
  unfold itAdvance
  cases h : s.iset <;> rfl

/-- A halted state is marked or at the end of its run. -/
theorem halted_eq_none {s : State} :
    halted s = none ↔ s.fault = none ∧ s.refused = none ∧ s.pc.toNat ≠ s.progEnd := by
  unfold halted
  cases s.fault <;> cases s.refused <;> simp

/-- The bytes of the program the machine sees depend on nothing but the program, its base and `iset`. -/
theorem programByte_congr {s t : State} (hp : t.program = s.program) (hb : t.base = s.base) (hi : t.iset = s.iset)
    (a : Nat) : programByte t a = programByte s a := by
  simp [programByte, hp, hb, hi]

/-- The read of one byte after a completed store: the stored byte inside, the old byte outside. -/
theorem readByte_withMem_store {s : State} {addr : Word} {bytes : List Byte} (hl : bytes.length = 4)
    (h : touchesProgram s addr = false) (a : Nat) :
    (s.withMem (s.mem.writeBytes addr.toNat bytes)).readByte a =
      if addr.toNat ≤ a ∧ a < addr.toNat + 4 then bytes[a - addr.toNat]? else s.readByte a := by
  have hpb : programByte (s.withMem (s.mem.writeBytes addr.toNat bytes)) a = programByte s a :=
    programByte_congr rfl rfl rfl a
  unfold State.readByte
  rw [hpb, State.withMem_mem, Memory.read_writeBytes, hl]
  by_cases hin : addr.toNat ≤ a ∧ a < addr.toNat + 4
  · have hn : programByte s a = none := by
      rw [programByte_eq_none]
      have := touchesProgram_eq_false.1 h (a - addr.toNat) (by omega)
      rw [show addr.toNat + (a - addr.toNat) = a by omega] at this
      exact this
    simp [hin, hn]
  · simp [hin]

end Sys2Proof.Machine
end

