-- ==== Sys2Proof/Laws/Stc.lean ====
section
/-! SUPPORT. Everything the operation of STC can do, said once: where it answers a next state it has advanced, after a
transfer or after none. -/

namespace Sys2Proof.Machine

/-- The state a transfer leaves before the advance: the datum consumed, the word stored, the base written back if
`wback` (40_stc.md R121). -/
def transferred (f : Fields) (wback : Bool) (s : State) : State :=
  let m := (readDtrrx s).2.withMem
    (s.mem.writeBytes (storeAddr f s).toNat (wordBytes s.params.bigEndData (readDtrrx s).1))
  if wback then writeReg m f.rn (offsetAddr f s) else m

/-- What `MemAdmit` answers does not depend on the datum, nor on whether it has been read (20_memory.md R61). -/
@[simp] theorem memAborts_readDtrrx (s : State) (addr : Word) (n : Nat) :
    memAborts (readDtrrx s).2 addr n = memAborts s addr n := by
  unfold memAborts
  have hv : (readDtrrx s).2.seenByPlatform = s.seenByPlatform := by
    unfold readDtrrx
    split
    · rfl
    · split <;> rfl
  simp [hv]

@[simp] theorem touchesProgram_readDtrrx (s : State) (addr : Word) :
    touchesProgram (readDtrrx s).2 addr = touchesProgram s addr := by
  have he : (readDtrrx s).2.progEnd = s.progEnd := by simp [State.progEnd]
  simp [touchesProgram, he]

theorem stcTransfer_eq_next {f : Fields} {instr : Word} {wback : Bool} {s t : State} :
    stcTransfer f instr wback s = .next t ↔
      (storeAddr f s).extractLsb' 0 2 = 0#2 ∧ memAborts s (storeAddr f s) 4 = false ∧
      touchesProgram s (storeAddr f s) = false ∧ s.pc.toNat + 4 < 2 ^ 32 ∧
      t = itAdvance ((transferred f wback s).withPc (s.pc + 4#32)) := by
  unfold stcTransfer
  rw [andThen_eq_next]
  constructor
  · rintro ⟨m, hm, ha⟩
    rw [memWrite_eq_next] at hm
    obtain ⟨h1, h2, h3, rfl⟩ := hm
    rw [advance_eq_next] at ha
    refine ⟨h1, by simpa using h2, by simpa using h3, ?_, ?_⟩
    · cases wback <;> simpa using ha.1
    · cases wback <;> simpa [transferred] using ha.2
  · rintro ⟨h1, h2, h3, h4, rfl⟩
    refine ⟨_, memWrite_eq_next.2 ⟨h1, by simpa using h2, by simpa using h3, rfl⟩, ?_⟩
    rw [advance_eq_next]
    cases wback <;> exact ⟨by simpa using h4, by simp [transferred]⟩

/-- An access completes exactly where it is permitted, not trapped, and the transfer completes. -/
theorem stcAccess_eq_next {f : Fields} {instr : Word} {wback : Bool} {s t : State} :
    stcAccess f instr wback s = .next t ↔
      sysRegPermitted s = true ∧ hypTrapped s = false ∧ stcTransfer f instr wback s = .next t := by
  unfold stcAccess
  cases hp : sysRegPermitted s
  · simp
  · cases hh : hypTrapped s <;> simp

/-- Where the CONSTRAINED UNPREDICTABLE cases answer a next state (40_stc.md R141, R142). -/
theorem stcUnpredictable_eq_next {f : Fields} {instr : Word} {s t : State}
    (h : stcUnpredictable f instr s = .next t) :
    (s.params.cuStcPc = .nop ∧ advance s = .next t) ∨
      (s.params.cuStcPc = .wbsuppress ∧ s.iset = .a32 ∧ stcAccess f instr false s = .next t) := by
  unfold stcUnpredictable at h
  split at h <;> simp_all

/-- Where an STC answers a next state it has skipped, or has transferred a datum; it writes the base register back
only if its row says so and the register is not 15. `d` counts the free values. -/
theorem stc_eq_next {f : Fields} {instr : Word} {s t : State} (h : stc f instr s = .next t) :
    ∃ d, advance (s.withDraws d) = .next t ∨
      ∃ wback, (wback = true → f.w = true ∧ f.rn ≠ 15) ∧ isUndefined f = false ∧
        stcTransfer f instr wback (s.withDraws d) = .next t := by
  have passed : ∀ s', stcPassed f instr s' = .next t → advance s' = .next t ∨
      ∃ wback, (wback = true → f.w = true ∧ f.rn ≠ 15) ∧ isUndefined f = false ∧
        stcTransfer f instr wback s' = .next t := by
    intro s' h'
    unfold stcPassed at h'
    split at h'
    · simp at h'
    · next hu =>
      have hu : isUndefined f = false := by simpa using hu
      split at h'
      · rcases stcUnpredictable_eq_next h' with ⟨-, ha⟩ | ⟨-, -, ha⟩
        · exact .inl ha
        · exact .inr ⟨false, by simp, hu, (stcAccess_eq_next.1 ha).2.2⟩
      · next hc =>
        refine .inr ⟨f.w, ?_, hu, (stcAccess_eq_next.1 h').2.2⟩
        intro hw
        refine ⟨hw, ?_⟩
        intro h15
        simp_all [isUnpredictable]
  unfold stc at h
  split at h
  · exact ⟨s.draws, passed s h⟩
  · unfold stcFailed at h
    split at h
    · split at h
      · exact ⟨s.draws, .inl h⟩
      · split at h
        · exact ⟨_, passed _ h⟩
        · exact ⟨_, .inl h⟩
    · exact ⟨s.draws, .inl h⟩

/-- Every meaning is the shared operation on the fields and the word of its instruction. -/
theorem exec_eq_stc (i : Instr) (s : State) : exec i s = stc (fieldsOf i) (encode i) s := by
  cases i <;> rfl

end Sys2Proof.Machine
end

