-- ==== Sys2Proof/Laws/Safety.lean ====
section
/-! SUPPORT. The operations of the machine in the terms of Safety.lean: the datum, the immediate, ITSTATE, the stored
bytes, and the transfer as a whole. -/

namespace Sys2Proof.Safety

open Sys2Proof.Machine

theorem readDtrrx_fst (s : State) : (readDtrrx s).1 = datum s := by
  unfold readDtrrx datum
  cases hd : s.params.dccModel <;> cases hr : s.rxfull <;> rfl

theorem readDtrrx_snd_rxfull (s : State) : (readDtrrx s).2.rxfull = rxfullAfter s := by
  unfold readDtrrx rxfullAfter
  cases hd : s.params.dccModel <;> cases hr : s.rxfull <;> simp [hr]

theorem readDtrrx_snd_draws (s : State) : (readDtrrx s).2.draws = drawsAfter s := by
  unfold readDtrrx drawsAfter
  cases hd : s.params.dccModel <;> cases hr : s.rxfull <;> simp

theorem itAdvanced_eq : ∀ it : BitVec 8, itAdvanced it = nextItstate it := by
  decide

theorem itAdvance_itstate_eq (s : State) : (itAdvance s).itstate = itstateAfter s := by
  rw [itAdvance_itstate]
  unfold itstateAfter
  cases s.iset <;> simp [itAdvanced_eq]

theorem imm32_eq : ∀ imm8 : Byte, imm32 imm8 = BitVec.ofNat 32 (4 * imm8.toNat) := by
  decide

theorem offsetAddr_eq (f : Fields) (s : State) : offsetAddr f s = displaced (readReg s f.rn) f.u f.imm8 := by
  simp [offsetAddr, displaced, imm32_eq]

theorem wordBytes_getElem? (bigEnd : Bool) (v : Word) (k : Nat) (hk : k < 4) :
    (wordBytes bigEnd v)[k]? = some (wordByte bigEnd v k) := by
  interval_cases k <;> cases bigEnd <;> rfl

theorem storeOk_iff (s : State) (addr : Word) :
    StoreOk s addr ↔
      sysRegPermitted s = true ∧ hypTrapped s = false ∧ addr.extractLsb' 0 2 = 0#2 ∧
      memAborts s addr 4 = false ∧ touchesProgram s addr = false ∧ s.pc.toNat + 4 < 2 ^ 32 := by
  unfold StoreOk
  rw [aligned_iff, touchesProgram_eq_false]
  rfl

theorem readByte_congr {s t : State} (hm : t.mem = s.mem) (hp : t.program = s.program) (hb : t.base = s.base)
    (hi : t.iset = s.iset) (a : Nat) : t.readByte a = s.readByte a := by
  simp [State.readByte, programByte_congr hp hb hi, hm]

@[simp] theorem transferred_pc (f : Fields) (wback : Bool) (s : State) : (transferred f wback s).pc = s.pc := by
  cases wback <;> simp [transferred]

/-- What a transfer and the advance after it leave (40_stc.md R121): the effects of a completed STC, and the base
register written back if `wback`. -/
theorem transferred_effect (f : Fields) (wback : Bool) (s : State)
    (hp : touchesProgram s (storeAddr f s) = false) :
    let t := itAdvance ((transferred f wback s).withPc (s.pc + 4#32))
    StcEffect s t (storeAddr f s) ∧
      (wback = false → t.x = s.x) ∧ (wback = true → WroteReg s t f.rn (offsetAddr f s)) := by
  intro t
  have hmem : t.mem = (s.mem.writeBytes (storeAddr f s).toNat (wordBytes s.params.bigEndData (datum s))) := by
    cases wback <;> simp [t, transferred, readDtrrx_fst]
  have hprog : t.program = s.program := by cases wback <;> simp [t, transferred]
  have hbase : t.base = s.base := by cases wback <;> simp [t, transferred]
  have hiset : t.iset = s.iset := by cases wback <;> simp [t, transferred]
  refine ⟨⟨?_, ?_, ?_, ?_, ?_, ?_⟩, ?_, ?_⟩
  · intro a
    rw [readByte_congr (s := s.withMem _) hmem hprog hbase hiset, readByte_withMem_store (by simp) hp]
    split
    · exact wordBytes_getElem? _ _ _ (by omega)
    · rfl
  · cases wback <;> simp [t, transferred, readDtrrx_snd_rxfull]
  · cases wback <;> simp [t, transferred, readDtrrx_snd_draws]
  · simp [t]
  · rw [show t.itstate = _ from itAdvance_itstate_eq _]
    cases wback <;> simp [itstateAfter, transferred]
  · cases wback <;> simp [KeptByStc, t, transferred]
  · rintro rfl
    simp [t, transferred]
  · rintro rfl k hk
    simp [t, transferred, writeReg_x]

/-- Where nothing stands in its way an access completes, with the effects of the transfer (70 R192). -/
theorem stcAccess_completes (f : Fields) (instr : Word) (wback : Bool) (s : State)
    (h : StoreOk s (storeAddr f s)) :
    ∃ t, stcAccess f instr wback s = .next t ∧ StcEffect s t (storeAddr f s) ∧
      (wback = false → t.x = s.x) ∧ (wback = true → WroteReg s t f.rn (offsetAddr f s)) := by
  obtain ⟨h1, h2, h3, h4, h5, h6⟩ := (storeOk_iff s _).1 h
  exact ⟨_, stcAccess_eq_next.2 ⟨h1, h2, stcTransfer_eq_next.2 ⟨h3, h4, h5, h6, rfl⟩⟩,
    transferred_effect f wback s h5⟩

/-- What `advance` leaves where `pc + 4` does not wrap: the effects of an STC that does nothing (40_stc.md R135). -/
theorem advance_completes (s : State) (h : s.pc.toNat + 4 < 2 ^ 32) :
    ∃ t, advance s = .next t ∧ SkipEffect s t ∧ t.draws = s.draws := by
  refine ⟨_, advance_eq_next.2 ⟨h, rfl⟩, ⟨by simp, ?_, by simp, ?_, by simp, by simp [KeptByStc]⟩, by simp⟩
  · rw [itAdvance_itstate_eq]
    rfl
  · intro a
    exact readByte_congr (by simp) (by simp) (by simp) (by simp) a

end Sys2Proof.Safety
end

