-- ==== Sys2Proof/Laws/Exec.lean ====
section
/-! SUPPORT. Where `exec` faults and where it refuses, said once, and which branch of R145 it takes. -/

namespace Sys2Proof.Safety

open Sys2Proof.Machine

/-- The UNDEFINED statement of R120 marks exactly the two patterns that are no STC encoding. -/
theorem isUndefined_fieldsOf (i : Instr) : isUndefined (fieldsOf i) = !isStc i := by
  cases i <;> simp [isUndefined, fieldsOf, isStc]

theorem exec_of_passed {i : Instr} {s : State} (h : conditionPassed (fieldsOf i).cond s = true) :
    exec i s = stcPassed (fieldsOf i) (encode i) s := by
  rw [exec_eq_stc, stc, if_pos h]

theorem exec_of_failed {i : Instr} {s : State} (h : conditionPassed (fieldsOf i).cond s = false) :
    exec i s = stcFailed (fieldsOf i) (encode i) s := by
  rw [exec_eq_stc, stc, if_neg (by simp [h])]

/-- An executing STC goes straight to its access, without writeback where `wbsuppress` takes it away. -/
theorem exec_of_executes {i : Instr} {s : State} (h : Executes i s) :
    exec i s = stcAccess (fieldsOf i) (encode i) ((fieldsOf i).w && !isUnpredictable (fieldsOf i) s) s := by
  obtain ⟨h1, h2, h3⟩ := h
  rw [exec_of_passed h2, stcPassed, isUndefined_fieldsOf, h1]
  cases hu : isUnpredictable (fieldsOf i) s
  · simp
  · obtain ⟨hp, hi⟩ := h3.resolve_left (by simp [hu])
    simp [stcUnpredictable, hp, hi]

theorem stcTransfer_eq_fault {f : Fields} {instr : Word} {wback : Bool} {s : State} {r : Fault}
    (h : stcTransfer f instr wback s = .fault r) : ∃ k, r = .dataAbort k (storeAddr f s) instr s.pc := by
  unfold stcTransfer at h
  cases hm : memWrite instr (storeAddr f s) (readDtrrx s).1 (readDtrrx s).2 with
  | next t => simp [hm] at h
  | fault g =>
    obtain ⟨k, hk⟩ := memWrite_eq_fault hm
    simp only [hm, andThen_fault, Host.Outcome.fault.injEq] at h
    exact ⟨k, by simpa [← h] using hk⟩
  | refused g => simp [hm] at h

theorem stcTransfer_eq_refused {f : Fields} {instr : Word} {wback : Bool} {s : State} {r : Refusal}
    (h : stcTransfer f instr wback s = .refused r) : r = .storeIntoProgram ∨ r = .pcWrap := by
  unfold stcTransfer at h
  cases hm : memWrite instr (storeAddr f s) (readDtrrx s).1 (readDtrrx s).2 with
  | next t =>
    simp only [hm, andThen_next] at h
    exact .inr (advance_eq_refused.1 h).2
  | fault g => simp [hm] at h
  | refused g =>
    simp only [hm, andThen_refused, Host.Outcome.refused.injEq] at h
    exact .inl (h ▸ memWrite_eq_refused hm)

theorem stcAccess_eq_fault {f : Fields} {instr : Word} {wback : Bool} {s : State} {r : Fault}
    (h : stcAccess f instr wback s = .fault r) :
    r = .undefinedInstruction instr s.pc ∨ (r = .hypTrap instr s.pc ∧ hypTrapped s = true) ∨
      ∃ k, r = .dataAbort k (storeAddr f s) instr s.pc := by
  unfold stcAccess raise at h
  split at h
  · exact .inl (by simpa using h.symm)
  · split at h
    · next ht => exact .inr (.inl ⟨by simpa using h.symm, ht⟩)
    · exact .inr (.inr (stcTransfer_eq_fault h))

theorem stcAccess_eq_refused {f : Fields} {instr : Word} {wback : Bool} {s : State} {r : Refusal}
    (h : stcAccess f instr wback s = .refused r) : r = .storeIntoProgram ∨ r = .pcWrap := by
  unfold stcAccess raise at h
  split at h
  · simp at h
  · split at h
    · simp at h
    · exact stcTransfer_eq_refused h

/-- The faults of an instruction whose condition passed. -/
theorem stcPassed_eq_fault {f : Fields} {instr : Word} {s : State} {r : Fault}
    (h : stcPassed f instr s = .fault r) :
    r = .undefinedInstruction instr s.pc ∨ isUndefined f = false ∧
      (r = .hypTrap instr s.pc ∧ hypTrapped s = true ∨ ∃ k, r = .dataAbort k (storeAddr f s) instr s.pc) := by
  unfold stcPassed at h
  split at h
  · exact .inl (by simpa [raise] using h.symm)
  · next hu =>
    have access : ∀ wback, stcAccess f instr wback s = .fault r → r = .undefinedInstruction instr s.pc ∨
        isUndefined f = false ∧
          (r = .hypTrap instr s.pc ∧ hypTrapped s = true ∨ ∃ k, r = .dataAbort k (storeAddr f s) instr s.pc) := by
      intro wback ha
      rcases stcAccess_eq_fault ha with h' | h'
      · exact .inl h'
      · exact .inr ⟨by simpa using hu, h'⟩
    split at h
    · unfold stcUnpredictable at h
      split at h
      · exact .inl (by simpa [raise] using h.symm)
      · simp at h
      · exact access _ h
      all_goals simp at h
    · exact access _ h

/-- The refusals of an instruction whose condition passed. -/
theorem stcPassed_eq_refused {f : Fields} {instr : Word} {s : State} {r : Refusal}
    (h : stcPassed f instr s = .refused r) :
    (isUndefined f = false ∧ isUnpredictable f s = true ∧
      r = .unpredictable (if s.iset = .a32 then .a1PcWriteback else .t1PcBase)) ∨
    r = .storeIntoProgram ∨ r = .pcWrap := by
  unfold stcPassed at h
  split at h
  · simp [raise] at h
  · next hu =>
    split at h
    · next hc =>
      unfold stcUnpredictable at h
      split at h
      · simp [raise] at h
      · exact .inr (.inr (advance_eq_refused.1 h).2)
      · exact .inr (stcAccess_eq_refused h)
      all_goals
        next hi => exact .inl ⟨by simpa using hu, hc, by simpa [hi] using h.symm⟩
    · exact .inr (stcAccess_eq_refused h)

/-- A fault of an instruction is one it raises with its condition passed; `d` counts the free values. -/
theorem exec_eq_fault {i : Instr} {s : State} {r : Fault} (h : exec i s = .fault r) :
    ∃ d, stcPassed (fieldsOf i) (encode i) (s.withDraws d) = .fault r := by
  rw [exec_eq_stc, stc] at h
  split at h
  · exact ⟨s.draws, h⟩
  · unfold stcFailed at h
    split at h
    · split at h
      · simp at h
      · split at h
        · exact ⟨_, h⟩
        · simp at h
    · simp at h

/-- A refusal of an instruction is `pcWrap`, or one it gives with its condition passed. -/
theorem exec_eq_refused {i : Instr} {s : State} {r : Refusal} (h : exec i s = .refused r) :
    r = .pcWrap ∨ ∃ d, stcPassed (fieldsOf i) (encode i) (s.withDraws d) = .refused r := by
  rw [exec_eq_stc, stc] at h
  split at h
  · exact .inr ⟨s.draws, h⟩
  · unfold stcFailed at h
    split at h
    · split at h
      · exact .inl (advance_eq_refused.1 h).2
      · split at h
        · exact .inr ⟨_, h⟩
        · exact .inl (advance_eq_refused.1 h).2
    · exact .inl (advance_eq_refused.1 h).2

/-- The trap of 40_stc.md R144, condition by condition. -/
theorem hypTrapped_iff (s : State) :
    hypTrapped s = true ↔ s.params.haveEL2 = true ∧ s.nonsecure = true ∧ s.mode ≠ .hyp ∧
      sysRegPermitted s = true ∧ hypTrapDebug s = true := by
  simp [hypTrapped, and_assoc]

/-- The predicates of the environment do not see the model's own count of free values (log 25). -/
@[simp] theorem sysRegPermitted_withDraws (s : State) (d : Nat) :
    sysRegPermitted (s.withDraws d) = sysRegPermitted s := rfl

@[simp] theorem hypTrapped_withDraws (s : State) (d : Nat) : hypTrapped (s.withDraws d) = hypTrapped s := rfl

@[simp] theorem memAborts_withDraws (s : State) (d : Nat) (addr : Word) (n : Nat) :
    memAborts (s.withDraws d) addr n = memAborts s addr n := rfl

@[simp] theorem storeAddr_withDraws (f : Fields) (s : State) (d : Nat) :
    storeAddr f (s.withDraws d) = storeAddr f s := rfl

end Sys2Proof.Safety
end

