-- ==== Sys2Proof/Laws/PerInstr.lean ====
section
/-! SUPPORT. Per instruction: the constant bits of its row. Family `RowBits`: the word of an instruction has the mask
and match of its row in 30_encoding.md R86. -/

namespace Sys2Proof.Laws.RowBits

/-- The mask of the row of an instruction (R86). -/
def mask : Instr → Word
  | .stcA1Off _ _ _ _ => 0x0F70FF00#32
  | .stcA1Post _ _ _ _ => 0x0F70FF00#32
  | .stcA1Pre _ _ _ _ => 0x0F70FF00#32
  | .stcA1Unind _ _ _ => 0x0FF0FF00#32
  | .stcA1Undefined _ _ _ => 0x0FF0FF00#32
  | .stcT1Off _ _ _ => 0xFF70FF00#32
  | .stcT1Post _ _ _ => 0xFF70FF00#32
  | .stcT1Pre _ _ _ => 0xFF70FF00#32
  | .stcT1Unind _ _ => 0xFFF0FF00#32
  | .stcT1Undefined _ _ => 0xFFF0FF00#32

/-- The match of the row of an instruction (R86). -/
def pattern : Instr → Word
  | .stcA1Off _ _ _ _ => 0x0D005E00#32
  | .stcA1Post _ _ _ _ => 0x0C205E00#32
  | .stcA1Pre _ _ _ _ => 0x0D205E00#32
  | .stcA1Unind _ _ _ => 0x0C805E00#32
  | .stcA1Undefined _ _ _ => 0x0C005E00#32
  | .stcT1Off _ _ _ => 0xED005E00#32
  | .stcT1Post _ _ _ => 0xEC205E00#32
  | .stcT1Pre _ _ _ => 0xED205E00#32
  | .stcT1Unind _ _ => 0xEC805E00#32
  | .stcT1Undefined _ _ => 0xEC005E00#32

/-- The word of the instruction has the constant bits of its row. -/
def Statement (i : Instr) : Prop :=
  encode i &&& mask i = pattern i

/-- A bit of a packed word under a mask, bit by bit. -/
theorem of_bits {a b : Word} (h : ∀ i < 32, a.getLsbD i = b.getLsbD i) : a = b :=
  BitVec.eq_of_getLsbD_eq fun i hi => h i hi

theorem stcA1Off (cond : Cond) (u : Bool) (rn : RegNum) (imm8 : Byte) : Statement (.stcA1Off cond u rn imm8) := by
  apply of_bits
  intro i hi
  interval_cases i <;> simp [encode, mask, pattern, packWord]

theorem stcA1Post (cond : Cond) (u : Bool) (rn : RegNum) (imm8 : Byte) : Statement (.stcA1Post cond u rn imm8) := by
  apply of_bits
  intro i hi
  interval_cases i <;> simp [encode, mask, pattern, packWord]

theorem stcA1Pre (cond : Cond) (u : Bool) (rn : RegNum) (imm8 : Byte) : Statement (.stcA1Pre cond u rn imm8) := by
  apply of_bits
  intro i hi
  interval_cases i <;> simp [encode, mask, pattern, packWord]

theorem stcA1Unind (cond : Cond) (rn : RegNum) (option : Byte) : Statement (.stcA1Unind cond rn option) := by
  apply of_bits
  intro i hi
  interval_cases i <;> simp [encode, mask, pattern, packWord]

theorem stcA1Undefined (cond : Cond) (rn : RegNum) (imm8 : Byte) : Statement (.stcA1Undefined cond rn imm8) := by
  apply of_bits
  intro i hi
  interval_cases i <;> simp [encode, mask, pattern, packWord]

theorem stcT1Off (u : Bool) (rn : RegNum) (imm8 : Byte) : Statement (.stcT1Off u rn imm8) := by
  apply of_bits
  intro i hi
  interval_cases i <;> simp [encode, mask, pattern, packWord]

theorem stcT1Post (u : Bool) (rn : RegNum) (imm8 : Byte) : Statement (.stcT1Post u rn imm8) := by
  apply of_bits
  intro i hi
  interval_cases i <;> simp [encode, mask, pattern, packWord]

theorem stcT1Pre (u : Bool) (rn : RegNum) (imm8 : Byte) : Statement (.stcT1Pre u rn imm8) := by
  apply of_bits
  intro i hi
  interval_cases i <;> simp [encode, mask, pattern, packWord]

theorem stcT1Unind (rn : RegNum) (option : Byte) : Statement (.stcT1Unind rn option) := by
  apply of_bits
  intro i hi
  interval_cases i <;> simp [encode, mask, pattern, packWord]

theorem stcT1Undefined (rn : RegNum) (imm8 : Byte) : Statement (.stcT1Undefined rn imm8) := by
  apply of_bits
  intro i hi
  interval_cases i <;> simp [encode, mask, pattern, packWord]

end Sys2Proof.Laws.RowBits
end

