-- ==== Sys2Proof/Laws/Step.lean ====
section
/-! SUPPORT. Everything a step can do, said once. -/

namespace Sys2Proof.Machine

/-- Where a step answers a next state, the host has written, or the PE has executed the instruction it fetched. -/
theorem step_eq_next {s t : State} (h : step s = .next t) :
    halted s = none ∧
      ((∃ v, nextTurn s = .hostWrite v ∧ t = hostWrite v (takeTurn s)) ∨
        ∃ i, nextTurn s = .pe ∧ fetch s = .ok i ∧ exec i (takeTurn s) = .next t) := by
  unfold step at h
  split at h
  · next o ho =>
    unfold halted at ho
    split at ho
    · simp_all
    · simp_all
    · split at ho <;> simp_all
  · next hn =>
    refine ⟨hn, ?_⟩
    split at h
    · next v hv =>
      exact .inl ⟨v, hv, by simpa using h.symm⟩
    · next hv =>
      split at h
      · simp at h
      · next i hi =>
        exact .inr ⟨i, hv, hi, h⟩

/-- Where the machine fetches an instruction, `pc` is aligned and the launch is one R34 does not refuse. -/
theorem fetch_eq_ok {s : State} {i : Instr} (h : fetch s = .ok i) :
    pcMisaligned s = false ∧ launchITSTATEBad s = false ∧
      ∃ rest, decodeBytes s.iset (programBytes s s.pc.toNat 4) = .ok (i, rest) := by
  unfold fetch at h
  split at h
  · simp at h
  · next h1 =>
    split at h
    · simp at h
    · next h2 =>
      refine ⟨by simpa using h1, by simpa using h2, ?_⟩
      split at h
      · next j rest hd =>
        simp only [Except.ok.injEq] at h
        subst h
        exact ⟨rest, hd⟩
      · simp at h
      · simp at h

end Sys2Proof.Machine
end

