-- ==== Sys2Proof/Tests/Slice0.lean ====
section
/-! SUPPORT. Tests of the model, their expected values from spec/95_test_vectors.md (named VD, VX, VT, VC, VF, VR there)
or from the rule cited, and for each obligation with hypotheses a witness that meets them. -/

namespace Sys2Proof.Tests

open Sys2Proof.Machine Sys2Proof.Safety

/-! ### Well-formedness: an ill-formed term for each check -/

theorem test_wf_refuses_cond_1111_off : Instr.wf (.stcA1Off .nv true 1 1#8) = false := by decide

theorem test_wf_refuses_cond_1111_post : Instr.wf (.stcA1Post .nv true 1 1#8) = false := by decide

theorem test_wf_refuses_cond_1111_pre : Instr.wf (.stcA1Pre .nv true 1 1#8) = false := by decide

theorem test_wf_refuses_cond_1111_unind : Instr.wf (.stcA1Unind .nv 1 1#8) = false := by decide

theorem test_wf_refuses_cond_1111_undefined : Instr.wf (.stcA1Undefined .nv 1 1#8) = false := by decide

theorem test_wf_takes_al : Instr.wf (.stcA1Off .al true 1 1#8) = true := by decide

/-! ### Decoding, one word per constructor, written out from the diagrams R81 and R82 -/

/-- VD1: cond 1110, 110, P 1, U 1, D 0, W 0, L 0, Rn 0001, CRd 0101, 111, 0, imm8 00000001. -/
theorem test_decode_a1_off :
    decodeWord .a32 0b1110_110_1_1_0_0_0_0001_0101_111_0_00000001#32 = some (.stcA1Off .al true 1 0x01#8) := by decide

/-- VD9: STCNE, Post-indexed. -/
theorem test_decode_a1_post :
    decodeWord .a32 0b0001_110_0_1_0_1_0_0110_0101_111_0_00000011#32 = some (.stcA1Post .ne true 6 0x03#8) := by decide

/-- VD3: Pre-indexed, U 0. -/
theorem test_decode_a1_pre :
    decodeWord .a32 0b1110_110_1_0_0_1_0_0010_0101_111_0_00000010#32 = some (.stcA1Pre .al false 2 0x02#8) := by decide

/-- VD4: Unindexed. -/
theorem test_decode_a1_unind :
    decodeWord .a32 0b1110_110_0_1_0_0_0_0011_0101_111_0_00000111#32 = some (.stcA1Unind .al 3 0x07#8) := by decide

/-- VD5: the UNDEFINED pattern. -/
theorem test_decode_a1_undefined :
    decodeWord .a32 0b1110_110_0_0_0_0_0_0011_0101_111_0_00000111#32 = some (.stcA1Undefined .al 3 0x07#8) := by decide

/-- VD17, from the bytes 81 ED 01 5E. -/
theorem test_decode_t1_off :
    decodeBytes .t32 [0x81#8, 0xED#8, 0x01#8, 0x5E#8] = .ok (.stcT1Off true 1 0x01#8, []) := rfl

/-- VD18. -/
theorem test_decode_t1_post :
    decodeWord .t32 0b1110110_0_1_0_1_0_0000_0101_111_0_00000001#32 = some (.stcT1Post true 0 0x01#8) := by decide

/-- VD19. -/
theorem test_decode_t1_pre :
    decodeWord .t32 0b1110110_1_0_0_1_0_0010_0101_111_0_00000010#32 = some (.stcT1Pre false 2 0x02#8) := by decide

/-- VD20. -/
theorem test_decode_t1_unind :
    decodeWord .t32 0b1110110_0_1_0_0_0_0011_0101_111_0_00000111#32 = some (.stcT1Unind 3 0x07#8) := by decide

/-- VD21. -/
theorem test_decode_t1_undefined :
    decodeWord .t32 0b1110110_0_0_0_0_0_0011_0101_111_0_00000111#32 = some (.stcT1Undefined 3 0x07#8) := by decide

/-- VD1 from memory: the bytes 01 5E 81 ED. -/
theorem test_decode_bytes_a32 :
    decodeBytes .a32 [0x01#8, 0x5E#8, 0x81#8, 0xED#8] = .ok (.stcA1Off .al true 1 0x01#8, []) := rfl

/-- VD10 to VD16: words that are no STC. -/
theorem test_decode_a32_not_stc :
    decodeWord .a32 0xFD815E01#32 = none ∧ decodeWord .a32 0xED915E01#32 = none ∧
    decodeWord .a32 0xEDC15E01#32 = none ∧ decodeWord .a32 0xED816E01#32 = none ∧
    decodeWord .a32 0xED815F01#32 = none ∧ decodeWord .a32 0xED815C01#32 = none ∧
    decodeWord .a32 0xEF815E01#32 = none := by decide

/-- VD22 (a 16-bit instruction) and VD23. -/
theorem test_decode_t32_not_stc :
    firstOf32 0x0D81#16 = false ∧ decodeWord .t32 0x0D815E01#32 = none ∧ decodeWord .t32 0xFD815E01#32 = none := by
  decide

/-- VD8 and VD17 the other way. -/
theorem test_encode :
    encode (.stcA1Post .al false 5 0xFF#8) = 0xEC255EFF#32 ∧ encode (.stcT1Off true 1 0x01#8) = 0xED815E01#32 := by
  decide

/-- A table word whose top bits are not 1110 is an A1 word, one that fits T1 is a T1 word (log 9). -/
theorem test_decodeTableWord :
    decodeTableWord 32 0x0D005E00 = some (.stcA1Off .eq false 0 0#8) ∧
    decodeTableWord 32 0xED005E00 = some (.stcT1Off false 0 0#8) ∧ decodeTableWord 32 0xEF005E00 = none := by decide

/-- VI1, VI4, VI5. -/
theorem test_imm32 : imm32 0x00#8 = 0#32 ∧ imm32 0x80#8 = 512#32 ∧ imm32 0xFF#8 = 1020#32 := by decide

/-! ### Execution -/

/-- What a next state has to satisfy. -/
def after (o : Outcome) (p : State → Bool) : Bool :=
  match o with
  | .next t => p t
  | .fault _ => false
  | .refused _ => false

/-- The four bytes of memory from an address upward. -/
def bytesAt (t : State) (a : Nat) : List (Option Byte) :=
  [t.readByte a, t.readByte (a + 1), t.readByte (a + 2), t.readByte (a + 3)]

/-- A32 at 0x8000 with a one-word program, `x[1] = base`, and the datum `v` received. -/
def a32 (base v : Word) : State :=
  { State.reset with x := State.reset.x.set 1 base, dtrrx := v, rxfull := true, program := [0xED815E01#32] }

/-- T32 at 0x9000, likewise. -/
def t32 (base v : Word) : State :=
  { a32 base v with iset := .t32, pc := 0x9000#32, base := 0x9000#32 }

/-- VX1. -/
theorem test_a1_off_adds :
    after (exec (.stcA1Off .al true 1 1#8) (a32 0x1000#32 0xCAFEF00D#32)) (fun t =>
      bytesAt t 0x1004 == [some 0x0D#8, some 0xF0#8, some 0xFE#8, some 0xCA#8] && !t.rxfull && t.pc == 0x8004#32
        && readReg t 1 == 0x1000#32) = true := by decide

/-- VX6: the address wraps downward. -/
theorem test_a1_off_wraps_down :
    after (exec (.stcA1Off .al false 1 2#8) (a32 0x4#32 0x12345678#32)) (fun t =>
      bytesAt t 0xFFFFFFFC == [some 0x78#8, some 0x56#8, some 0x34#8, some 0x12#8]) = true := by decide

/-- VX15: the PC as base register. -/
theorem test_a1_off_pc_base :
    after (exec (.stcA1Off .al false 15 4#8) (a32 0#32 0x77777777#32)) (fun t =>
      t.readByte 0x7FF8 == some 0x77#8 && t.pc == 0x8004#32) = true := by decide

/-- VX8: stored at the old base, base minus 1020 written back. -/
theorem test_a1_post_writes_back :
    after (exec (.stcA1Post .al false 1 0xFF#8) (a32 0x5000#32 0x11223344#32)) (fun t =>
      t.readByte 0x5000 == some 0x44#8 && readReg t 1 == 0x4C04#32) = true := by decide

/-- VX10 and VX12: stored at the new base; the written back address wraps. -/
theorem test_a1_pre_wraps :
    after (exec (.stcA1Pre .al true 1 1#8) (a32 0xFFFFFFFC#32 0xA5A5A5A5#32)) (fun t =>
      t.readByte 0 == some 0xA5#8 && readReg t 1 == 0#32) = true := by decide

/-- VX14: the option is ignored. -/
theorem test_a1_unind_ignores_option :
    after (exec (.stcA1Unind .al 1 0xFF#8) (a32 0x4000#32 1#32)) (fun t =>
      bytesAt t 0x4000 == [some 1#8, some 0#8, some 0#8, some 0#8] && readReg t 1 == 0x4000#32) = true := by decide

/-- VX18: big-endian data. -/
theorem test_a1_off_big_endian :
    after (exec (.stcA1Off .al true 1 1#8)
      { a32 0x1000#32 0xCAFEF00D#32 with params := { Params.default with bigEndData := true } }) (fun t =>
      bytesAt t 0x1004 == [some 0xCA#8, some 0xFE#8, some 0xF0#8, some 0x0D#8]) = true := by decide

/-- VT1. -/
theorem test_t1_off :
    after (exec (.stcT1Off true 1 1#8) (t32 0x1000#32 0xCAFEF00D#32)) (fun t =>
      t.readByte 0x1004 == some 0x0D#8 && !t.rxfull && t.pc == 0x9004#32 && t.itstate == 0#8) = true := by decide

/-- VT5: the condition of the IT block fails; ITSTATE advances from 0x0C to 0x18. -/
theorem test_t1_off_skipped_in_it_block :
    after (exec (.stcT1Off true 1 1#8) { t32 0x1000#32 3#32 with itstate := 0x0C#8 }) (fun t =>
      t.mem == [] && t.rxfull && t.itstate == 0x18#8 && t.pc == 0x9004#32) = true := by decide

/-- VT2. -/
theorem test_t1_post :
    after (exec (.stcT1Post true 1 1#8) (t32 0x2000#32 0x11223344#32)) (fun t =>
      t.readByte 0x2000 == some 0x44#8 && readReg t 1 == 0x2004#32) = true := by decide

/-- VT3 with the last instruction of an IT block as in VT7: NE passes, ITSTATE is cleared. -/
theorem test_t1_pre :
    after (exec (.stcT1Pre false 1 2#8) { t32 0x3010#32 0xA5A5A5A5#32 with itstate := 0x18#8 }) (fun t =>
      t.readByte 0x3008 == some 0xA5#8 && readReg t 1 == 0x3008#32 && t.itstate == 0#8) = true := by decide

/-- VT4. -/
theorem test_t1_unind :
    after (exec (.stcT1Unind 1 7#8) (t32 0x4000#32 1#32)) (fun t =>
      t.readByte 0x4000 == some 1#8 && readReg t 1 == 0x4000#32) = true := by decide

/-- VC10 and VC11: HI stores with C set and Z clear, and skips with both set. -/
theorem test_condition_hi :
    conditionPassed .hi { a32 0#32 0#32 with flagC := true } = true ∧
    conditionPassed .hi { a32 0#32 0#32 with flagC := true, flagZ := true } = false := by decide

/-- VC13 to VC15: GE and LT. -/
theorem test_condition_ge_lt :
    conditionPassed .ge { a32 0#32 0#32 with flagN := true, flagV := true } = true ∧
    conditionPassed .lt { a32 0#32 0#32 with flagN := true, flagV := true } = false ∧
    conditionPassed .lt { a32 0#32 0#32 with flagN := true } = true := by decide

/-- VR3: under the plain model a read of the empty register gives its content and changes nothing. -/
theorem test_plain_dcc :
    after (exec (.stcA1Off .al true 1 1#8)
      { a32 0x1000#32 0xCAFEF00D#32 with rxfull := false, params := { Params.default with dccModel := .plain } })
      (fun t => t.readByte 0x1004 == some 0x0D#8 && !t.rxfull && t.draws == 0) = true := by decide

/-- VR2: the empty register gives a free value, and one more is counted. -/
theorem test_empty_read_is_a_draw :
    readDtrrx { a32 0x1000#32 0xCAFEF00D#32 with rxfull := false } =
      (Config.dtrrxDraw 0, { a32 0x1000#32 0xCAFEF00D#32 with rxfull := false, draws := 1 }) := rfl

/-! ### Faults and refusals -/

/-- VF1. -/
theorem test_misaligned_store :
    exec (.stcA1Off .al true 1 1#8) (a32 0x1002#32 0#32) =
      .fault (.dataAbort .alignment 0x1006#32 0xED815E01#32 0x8000#32) := rfl

/-- VF3: the platform aborts the word at 0x1004. -/
theorem test_platform_abort :
    exec (.stcA1Off .al true 1 1#8)
      { a32 0x1000#32 0#32 with params := { Params.default with memAdmit := .aborts [⟨0x1004, 4⟩] } } =
      .fault (.dataAbort .platform 0x1004#32 0xED815E01#32 0x8000#32) := rfl

/-- log 30: a region of size 0 inside the stored word aborts nothing, the last byte of a region does. -/
theorem test_memAdmit_region_by_bytes :
    memAborts { a32 0#32 0#32 with params := { Params.default with memAdmit := .aborts [⟨0x1001, 0⟩] } } 0x1000#32 4 =
      false ∧
    memAborts { a32 0#32 0#32 with params := { Params.default with memAdmit := .aborts [⟨0xFF0, 17⟩] } } 0x1000#32 4 =
      true := by decide

/-- VF4. -/
theorem test_a1_undefined :
    exec (.stcA1Undefined .al 3 7#8) (a32 0#32 0#32) =
      .fault (.undefinedInstruction 0xEC035E07#32 0x8000#32) := rfl

/-- VF6: with base register 15 the T1 pattern is UNDEFINED, not UNPREDICTABLE. -/
theorem test_t1_undefined_before_unpredictable :
    exec (.stcT1Undefined 15 0#8) (t32 0#32 0#32) =
      .fault (.undefinedInstruction 0xEC0F5E00#32 0x9000#32) := rfl

/-- VF7 and VF10. -/
theorem test_pc_base_refused :
    exec (.stcA1Pre .al true 15 0#8) (a32 0#32 0#32) = .refused (.unpredictable .a1PcWriteback) ∧
    exec (.stcT1Unind 15 7#8) (t32 0#32 0#32) = .refused (.unpredictable .t1PcBase) := ⟨rfl, rfl⟩

/-- An implementation with EL2 whose controls trap the access, in a Non-secure mode. -/
def trapping : Params :=
  { Params.default with haveEL2 := true, hypTrapDebug := .const true }

/-- VF15: the trap comes before the alignment of the store. -/
theorem test_hyp_trap :
    exec (.stcA1Off .al true 1 1#8) { a32 0x1002#32 0#32 with params := trapping, nonsecure := true } =
      .fault (.hypTrap 0xED815E01#32 0x8000#32) := rfl

/-- VF13: no trap in Hyp mode. -/
theorem test_no_trap_in_hyp_mode :
    after (exec (.stcA1Off .al true 1 1#8)
      { a32 0x1000#32 9#32 with params := trapping, nonsecure := true, mode := .hyp })
      (fun t => t.readByte 0x1004 == some 9#8) = true := by decide

/-- VF14: permission comes before the trap. -/
theorem test_permission_before_trap :
    exec (.stcA1Off .al true 1 1#8)
      { a32 0x1000#32 0#32 with params := { trapping with sysRegPermitted := .const false }, nonsecure := true } =
      .fault (.undefinedInstruction 0xED815E01#32 0x8000#32) := rfl

/-- VF16: a store into the program, of two words here. -/
theorem test_store_into_program :
    exec (.stcA1Off .al true 1 1#8) { a32 0x8000#32 0#32 with program := [0xED815E01#32, 0xED815E01#32] } =
      .refused .storeIntoProgram := rfl

/-! ### Steps -/

/-- P1, first step: the word fetched at 0x8000 runs. -/
theorem test_step_runs_the_word_at_pc :
    after (step { a32 0#32 0x11111111#32 with x := State.reset.x.set 0 0x1000#32, program := [0xECA05E01#32] })
      (fun t => t.readByte 0x1003 == some 0x11#8 && readReg t 0 == 0x1004#32 && t.pc == 0x8004#32) = true := by decide

/-- P3, second step: T32 at the second word of its program. -/
theorem test_step_t32 :
    after (step { t32 0#32 0xAAAAAAAA#32 with
        pc := 0x9004#32, itstate := 0x18#8, x := State.reset.x.set 4 0x3000#32
        program := [0xECA45E01#32, 0xEDA45E02#32] })
      (fun t => t.readByte 0x3008 == some 0xAA#8 && readReg t 4 == 0x3008#32 && t.itstate == 0#8) = true := by decide

/-- VR4: the host's move. -/
theorem test_step_host_write :
    after (step { a32 0#32 0#32 with rxfull := false, schedule := [.hostWrite 0x42#32, .pe] })
      (fun t => t.dtrrx == 0x42#32 && t.rxfull && t.pc == 0x8000#32 && t.schedule == [.pe]) = true := by decide

/-- VF17. -/
theorem test_step_not_stc : step { a32 0#32 0#32 with program := [0xFD815E01#32] } = .refused .notSTC := rfl

/-- R193: the run is over at `End`; the state the model calls reset has no program. -/
theorem test_step_at_end : step State.reset = .refused .runEnded := rfl

/-- A launched A1 word whose condition fails at reset is skipped; a launched T1 word stores. -/
theorem test_launch :
    after (step (State.reset.withFetchWord 32 0x0D005E00)) (fun t => t.pc == 0x8004#32) = true ∧
    after (step (State.reset.withFetchWord 32 0xED005E00)) (fun t => t.pc == 0x8004#32) = true := by decide

/-! ### The assembler -/

/-- VD3 and VD7 as text, and back. -/
theorem test_disassemble :
    (disassemble .al (.stcA1Pre .al false 2 2#8)).map lineText = some "STC p14, c5, [R2, #-8]!" ∧
    (disassemble .al (.stcA1Off .eq true 4 0xFF#8)).map lineText = some "STCEQ p14, c5, [R4, #1020]" := by decide

/-- R99, R101: `.N` has no encoding, nor has an offset that is no multiple of 4. -/
theorem test_assemble_refuses :
    assemble .t32 .al ⟨none, some .narrow, .offset 1 none⟩ = none ∧
    assemble .a32 .al ⟨none, none, .offset 1 (some (true, 6))⟩ = none := by decide

/-! ### Witnesses: the hypotheses of each obligation hold together -/

theorem witness_wellFormed : Instr.wf (.stcA1Off .al true 1 1#8) = true ∧ Instr.wf (.stcT1Undefined 15 0xFF#8) = true := by
  decide

theorem witness_decodedWord :
    decodeWord .a32 0xED815E01#32 = some (.stcA1Off .al true 1 1#8) ∧
    decodeWord .t32 0xEC835E07#32 = some (.stcT1Unind 3 7#8) := by decide

theorem witness_EveryEncodingIsFourBytes :
    decodeBytes .a32 [0x01#8, 0x5E#8, 0x81#8, 0xED#8, 0x00#8] = .ok (.stcA1Off .al true 1 1#8, [0x00#8]) ∧
    decodeBytes .t32 [0x81#8, 0xED#8, 0x01#8, 0x5E#8] = .ok (.stcT1Off true 1 1#8, []) := ⟨rfl, rfl⟩

/-- Both signs of the offset, from the bit U (95_test_vectors.md S1, VD1, VD3). -/
theorem witness_ImmediateIsImm8TimesFour_sign :
    (0xED815E01#32).getLsbD 23 = true ∧ decodeWord .a32 0xED815E01#32 = some (.stcA1Off .al true 1 1#8) ∧
    (0xED225E02#32).getLsbD 23 = false ∧ decodeWord .a32 0xED225E02#32 = some (.stcA1Pre .al false 2 2#8) := by decide

theorem witness_NotStcIsRefusedByName_a32 :
    let s := { a32 0#32 0#32 with program := [0xFD815E01#32] }
    PeReady s ∧ programBytes s s.pc.toNat 4 = [0x01#8, 0x5E#8, 0x81#8, 0xFD#8] ∧
    decodeWord s.iset (joinBytes 0x01#8 0x5E#8 0x81#8 0xFD#8) = none := by
  unfold PeReady PcAligned; decide

theorem witness_NotStcIsRefusedByName_t32 :
    let s := { t32 0#32 0#32 with program := [0xFD815E01#32] }
    PeReady s ∧ programBytes s s.pc.toNat 4 = [0x81#8, 0xFD#8, 0x01#8, 0x5E#8] ∧
    decodeWord s.iset (joinBytes 0x01#8 0x5E#8 0x81#8 0xFD#8) = none := by
  unfold PeReady PcAligned; decide

theorem witness_T32LengthByFirstHalfword :
    firstOf32 (joinHalfword 0xFF#8 0xE7#8) = false ∧ firstOf32 (joinHalfword 0x00#8 0xE8#8) = true ∧
    (Instr.stcT1Off true 1 1#8).iset = .t32 := by decide

theorem witness_AssembleOfDisassembledInstruction :
    disassemble .eq (.stcT1Off false 7 0#8) = some ⟨some .eq, none, .offset 7 (some (false, 0))⟩ ∧
    disassemble .al (.stcA1Unind .ne 3 0xFF#8) = some ⟨some .ne, none, .unindexed 3 255⟩ := by decide

theorem witness_AssembledInstructionIsStc :
    assemble .a32 .al ⟨none, some .wide, .preIndexed 2 false 1020⟩ = some (.stcA1Pre .al false 2 0xFF#8) ∧
    assemble .t32 .ne ⟨some .ne, none, .offset 1 none⟩ = some (.stcT1Off true 1 0#8) := by decide

theorem witness_CurrentCondition :
    (a32 0#32 0#32).iset = .a32 ∧
    (t32 0#32 0#32).iset = .t32 ∧ (t32 0#32 0#32).itstate.toNat % 16 = 0 ∧
    { t32 0#32 0#32 with itstate := 0x1F#8 }.itstate.toNat % 16 ≠ 0 := by decide

theorem witness_execAnswersNext :
    (∃ t, exec (.stcA1Post .al true 1 1#8) (a32 0x1000#32 1#32) = .next t) ∧
    (∃ t, exec (.stcT1Off true 1 1#8) { t32 0x1000#32 3#32 with itstate := 0x0C#8 } = .next t) :=
  ⟨⟨_, rfl⟩, ⟨_, rfl⟩⟩

theorem witness_StcA1OffStores :
    (a32 0xFFFFFFFC#32 1#32).iset = .a32 ∧ conditionPassed .al (a32 0xFFFFFFFC#32 1#32) = true ∧
    StoreOk (a32 0xFFFFFFFC#32 1#32) (displaced (readReg (a32 0xFFFFFFFC#32 1#32) 1) true 0xFF#8) ∧
    StoreOk (a32 0#32 1#32) (displaced (readReg (a32 0#32 1#32) 15) true 0xFF#8) := by
  unfold StoreOk; decide

theorem witness_StcA1PostStoresAndWritesBack :
    (a32 0xFFFFFFFC#32 1#32).iset = .a32 ∧ (1 : RegNum) ≠ 15 ∧ conditionPassed .ne (a32 0xFFFFFFFC#32 1#32) = true ∧
    StoreOk (a32 0xFFFFFFFC#32 1#32) (readReg (a32 0xFFFFFFFC#32 1#32) 1) := by
  unfold StoreOk; decide

theorem witness_StcA1PreStoresAndWritesBack :
    (a32 4#32 1#32).iset = .a32 ∧ (1 : RegNum) ≠ 15 ∧ conditionPassed .al (a32 4#32 1#32) = true ∧
    StoreOk (a32 4#32 1#32) (displaced (readReg (a32 4#32 1#32) 1) false 2#8) := by
  unfold StoreOk; decide

theorem witness_StcA1UnindStores :
    (a32 0x4000#32 1#32).iset = .a32 ∧ conditionPassed .al (a32 0x4000#32 1#32) = true ∧
    StoreOk (a32 0x4000#32 1#32) (readReg (a32 0x4000#32 1#32) 1) ∧
    StoreOk (a32 0x4000#32 1#32) (readReg (a32 0x4000#32 1#32) 15) := by
  unfold StoreOk; decide

theorem witness_StcT1OffStores :
    (t32 0x1000#32 1#32).iset = .t32 ∧ (1 : RegNum) ≠ 15 ∧ conditionPassed .al (t32 0x1000#32 1#32) = true ∧
    StoreOk (t32 0x1000#32 1#32) (displaced (readReg (t32 0x1000#32 1#32) 1) true 1#8) := by
  unfold StoreOk; decide

theorem witness_StcT1PostStoresAndWritesBack :
    let s := { t32 0x1000#32 1#32 with itstate := 0x18#8 }
    s.iset = .t32 ∧ conditionPassed .al s = true ∧ StoreOk s (readReg s 1) := by
  unfold StoreOk; decide

theorem witness_StcT1PreStoresAndWritesBack :
    (t32 0x3010#32 1#32).iset = .t32 ∧ conditionPassed .al (t32 0x3010#32 1#32) = true ∧
    StoreOk (t32 0x3010#32 1#32) (displaced (readReg (t32 0x3010#32 1#32) 1) false 2#8) := by
  unfold StoreOk; decide

theorem witness_StcT1UnindStores :
    (t32 0x4000#32 1#32).iset = .t32 ∧ conditionPassed .al (t32 0x4000#32 1#32) = true ∧
    StoreOk (t32 0x4000#32 1#32) (readReg (t32 0x4000#32 1#32) 1) := by
  unfold StoreOk; decide

theorem witness_FailedConditionSkips :
    let i := Instr.stcA1Off .eq true 1 1#8
    let s := a32 0x1000#32 1#32
    isStc i = true ∧ conditionPassed (fieldsOf i).cond s = false ∧ isUnpredictable (fieldsOf i) s = false ∧
    sysRegPermitted s = true ∧ hypTrapped s = false ∧ s.pc.toNat + 4 < 2 ^ 32 := by decide

theorem witness_FailedConditionSkipsUnderNop :
    let s := { a32 0#32 0#32 with params := { Params.default with condFailPolicy := .nop } }
    let s' := { s with iset := .t32, itstate := 0x0C#8 }
    conditionPassed (fieldsOf (.stcA1Undefined .eq 3 7#8)).cond s = false ∧ s.params.condFailPolicy = .nop ∧
    s.pc.toNat + 4 < 2 ^ 32 ∧ conditionPassed (fieldsOf (.stcT1Undefined 3 7#8)).cond s' = false := by decide

/-- VC21. -/
theorem witness_FailedConditionUnderEither :
    let i := Instr.stcA1Undefined .eq 3 7#8
    let s := a32 0#32 0#32
    conditionPassed (fieldsOf i).cond s = false ∧ stcPeculiar (fieldsOf i) s = true ∧
    s.params.condFailPolicy = .either ∧ s.pc.toNat + 4 < 2 ^ 32 := by decide

theorem witness_UndefinedPatternFaults :
    conditionPassed .al (a32 0#32 0#32) = true ∧ conditionPassed .al (t32 0#32 0#32) = true := by decide

theorem witness_PcBaseByParameter_a32 :
    let i := Instr.stcA1Pre .al true 15 0#8
    let s := a32 0#32 0#32
    isStc i = true ∧ conditionPassed (fieldsOf i).cond s = true ∧ (fieldsOf i).rn = 15 ∧ (fieldsOf i).w = true ∧
    s.params.cuStcPc = .refuse ∧ s.pc.toNat + 4 < 2 ^ 32 := by decide

theorem witness_PcBaseByParameter_t32 :
    let i := Instr.stcT1Off true 15 0#8
    let s := { t32 0#32 0#32 with params := { Params.default with cuStcPc := .wbsuppress } }
    isStc i = true ∧ conditionPassed (fieldsOf i).cond s = true ∧ (fieldsOf i).rn = 15 ∧ s.iset = .t32 ∧
    s.params.cuStcPc = .wbsuppress := by decide

/-- `undef` faults and `nop` answers a next state. -/
theorem witness_PcBaseByParameter_settings :
    exec (.stcA1Post .al true 15 1#8) { a32 0#32 0#32 with params := { Params.default with cuStcPc := .undef } } =
      .fault (.undefinedInstruction 0xECAF5E01#32 0x8000#32) ∧
    after (exec (.stcT1Off true 15 0#8) { t32 0#32 0#32 with params := { Params.default with cuStcPc := .nop } })
      (fun t => t.pc == 0x9004#32 && t.mem == []) = true ∧
    exec (.stcT1Off true 15 0#8) { t32 0#32 0#32 with params := { Params.default with cuStcPc := .wbToPc } } =
      .refused (.unpredictable .t1PcBase) := ⟨rfl, by decide, rfl⟩

theorem witness_PcBaseWritebackSuppressed :
    let s := { a32 0#32 1#32 with params := { Params.default with cuStcPc := .wbsuppress } }
    s.iset = .a32 ∧ conditionPassed .al s = true ∧ s.params.cuStcPc = .wbsuppress ∧ StoreOk s (s.pc + 8#32) ∧
    StoreOk s (displaced (s.pc + 8#32) false 4#8) := by
  unfold StoreOk; decide

theorem witness_NotPermittedIsUndefined :
    let i := Instr.stcT1Pre true 14 1#8
    let s := { t32 0#32 1#32 with params := { Params.default with sysRegPermitted := .const false } }
    let j := Instr.stcA1Pre .al true 15 1#8
    let r := { a32 0#32 1#32 with
      params := { Params.default with sysRegPermitted := .const false, cuStcPc := .wbsuppress } }
    (Executes i s ∧ sysRegPermitted s = false) ∧ (Executes j r ∧ sysRegPermitted r = false) := by
  unfold Executes; decide

theorem witness_HypTrapExactly :
    let i := Instr.stcA1Off .al true 1 1#8
    let s := { a32 0x1000#32 1#32 with params := trapping, nonsecure := true }
    let j := Instr.stcA1Post .al true 15 1#8
    let r := { s with params := { trapping with cuStcPc := .wbsuppress } }
    (Executes i s ∧ s.params.haveEL2 = true ∧ s.nonsecure = true ∧ s.mode ≠ .hyp ∧ sysRegPermitted s = true ∧
      hypTrapDebug s = true) ∧
    Executes j r ∧ exec j r = .fault (.hypTrap (encode j) r.pc) :=
  ⟨by unfold Executes; decide, by unfold Executes; decide, rfl⟩

theorem witness_StoreChecksInOrder :
    let i := Instr.stcA1Off .al true 1 1#8
    let s := a32 0x1001#32 0#32
    let s' := { a32 0x1000#32 0#32 with params := { Params.default with memAdmit := .aborts [⟨0x1007, 1⟩] } }
    let s'' := a32 0x7FFC#32 0#32
    (Executes i s ∧ sysRegPermitted s = true ∧ hypTrapped s = false ∧ (targetAddr i s).toNat % 4 ≠ 0) ∧
    (Executes i s' ∧ (targetAddr i s').toNat % 4 = 0 ∧ memAborts s' (targetAddr i s') 4 = true) ∧
    (Executes i s'' ∧ (targetAddr i s'').toNat % 4 = 0 ∧ memAborts s'' (targetAddr i s'') 4 = false ∧
      ∃ k < 4, s''.base.toNat ≤ (targetAddr i s'').toNat + k ∧ (targetAddr i s'').toNat + k < s''.progEnd) := by
  unfold Executes; decide

/-- The store's stops with base register 15 under `wbsuppress`: the platform and the program (`pc + 8` is aligned in
every state R25 admits; a misaligned `pc` is no state of a run). -/
theorem witness_StoreChecksInOrder_wbsuppress :
    let p := { Params.default with cuStcPc := .wbsuppress }
    let i := Instr.stcA1Post .al true 15 1#8
    let s := { a32 0#32 1#32 with params := p, pc := 0x8002#32 }
    let s' := { a32 0#32 1#32 with params := { p with memAdmit := .aborts [⟨0x8008, 1⟩] } }
    let s'' := { a32 0#32 1#32 with params := p, program := [0#32, 0#32, 0#32] }
    (Executes i s ∧ (targetAddr i s).toNat % 4 ≠ 0) ∧
    (Executes i s' ∧ (targetAddr i s').toNat % 4 = 0 ∧ memAborts s' (targetAddr i s') 4 = true) ∧
    Executes i s'' ∧ memAborts s'' (targetAddr i s'') 4 = false ∧ exec i s'' = .refused .storeIntoProgram :=
  ⟨by unfold Executes; decide, by unfold Executes; decide, by unfold Executes; decide, rfl, rfl⟩

theorem witness_PcWrapIsRefused :
    let i := Instr.stcA1Off .al true 1 1#8
    let s := { a32 0x1000#32 0#32 with pc := 0xFFFFFFFC#32, base := 0xFFFFFFFC#32 }
    Executes i s ∧ sysRegPermitted s = true ∧ hypTrapped s = false ∧
    2 ^ 32 ≤ s.pc.toNat + 4 ∧ (targetAddr i s).toNat % 4 = 0 ∧ memAborts s (targetAddr i s) 4 = false ∧
    (∀ k < 4, ¬ (s.base.toNat ≤ (targetAddr i s).toNat + k ∧ (targetAddr i s).toNat + k < s.progEnd)) ∧
    conditionPassed (fieldsOf (.stcA1Off .eq true 1 1#8)).cond s = false ∧
    stcPeculiar (fieldsOf (.stcA1Off .eq true 1 1#8)) s = false := by
  unfold Executes; decide

/-- The other clauses: the `wbsuppress` store, the no-op of `CU_STC_PC = nop`, the skip of an UNDEFINED pattern in each
class, and a peculiar instruction under `either`. -/
theorem witness_PcWrapIsRefused_clauses :
    let s := { a32 0#32 0#32 with pc := 0xFFFFFFFC#32, base := 0xFFFFFFFC#32 }
    let w := { s with params := { Params.default with cuStcPc := .wbsuppress } }
    let n := { s with params := { Params.default with cuStcPc := .nop, condFailPolicy := .nop } }
    let n' := { n with iset := .t32, itstate := 0x0C#8 }
    let i := Instr.stcA1Post .al true 15 1#8
    (Executes i w ∧ isUnpredictable (fieldsOf i) w = true ∧ exec i w = .refused .pcWrap) ∧
    (isStc i = true ∧ conditionPassed (fieldsOf i).cond n = true ∧ isUnpredictable (fieldsOf i) n = true) ∧
    (conditionPassed (fieldsOf (.stcA1Undefined .eq 3 7#8)).cond n = false ∧
      conditionPassed (fieldsOf (.stcT1Undefined 3 7#8)).cond n' = false) ∧
    conditionPassed (fieldsOf (.stcA1Undefined .eq 3 7#8)).cond s = false ∧
    stcPeculiar (fieldsOf (.stcA1Undefined .eq 3 7#8)) s = true ∧ s.params.condFailPolicy = .either :=
  ⟨⟨by unfold Executes; decide, by decide, rfl⟩, by decide, by decide, by decide, by decide, rfl⟩

theorem witness_execFaults :
    ∃ f, exec (.stcT1Off true 1 1#8) (t32 0x1002#32 0#32) = .fault f := ⟨_, rfl⟩

theorem witness_execRefuses :
    (∃ r, exec (.stcA1Off .al true 1 0#8) (a32 0x8000#32 0#32) = .refused r) ∧
    (∃ r, exec (.stcA1Off .eq true 1 0#8) { a32 0#32 0#32 with pc := 0xFFFFFFFC#32 } = .refused r) :=
  ⟨⟨_, rfl⟩, ⟨_, rfl⟩⟩

/-- The flags differ and the condition passes all the same; no listed predicate looks at them. -/
theorem witness_FlagsActOnlyThroughTheCondition :
    let s := a32 0x1000#32 1#32
    let s' := { s with flagN := true, flagZ := false, flagC := true, flagV := true }
    conditionPassed .ge s' = conditionPassed .ge s ∧ sysRegPermitted s' = sysRegPermitted s ∧
    hypTrapDebug s' = hypTrapDebug s ∧ ∀ a : Word, memAborts s' a 4 = memAborts s a 4 :=
  ⟨by decide, rfl, rfl, fun _ => rfl⟩

theorem witness_T1BehavesAsA1 :
    let s := { t32 0x1000#32 1#32 with itstate := 0x18#8 }
    let s' := { s with iset := .a32 }
    (Instr.stcT1Pre true 1 1#8).iset = .t32 ∧ (fieldsOf (.stcT1Pre true 1 1#8)).rn ≠ 15 ∧ s.iset = .t32 ∧
    conditionPassed .al s = true ∧ sysRegPermitted s' = sysRegPermitted s ∧ hypTrapDebug s' = hypTrapDebug s ∧
    ∀ a : Word, memAborts s' a 4 = memAborts s a 4 :=
  ⟨by decide, by decide, by decide, by decide, rfl, rfl, fun _ => rfl⟩

theorem witness_StepRunsTheInstructionAtPc :
    let s := a32 0x1000#32 1#32
    let i := Instr.stcA1Off .al true 1 1#8
    PeReady s ∧ i.wf = true ∧ i.iset = s.iset ∧ programBytes s s.pc.toNat 4 = wordToBytes i.iset (encode i) := by
  unfold PeReady PcAligned; decide

theorem witness_ProgramWordStandsAtItsAddress : 0 < (a32 0#32 0#32).program.length := by decide

theorem witness_LaunchedWordRunsNext :
    decodeTableWord 32 0xEC205E00 = some (.stcT1Post false 0 0#8) ∧ State.reset.pc.toNat % 4 = 0 ∧
    State.reset.itstate = 0#8 := by decide

theorem witness_HostWriteIsTheHostsMove :
    let s := { a32 0#32 0#32 with schedule := [.hostWrite 0x42#32] }
    s.fault = none ∧ s.refused = none ∧ s.pc.toNat ≠ s.progEnd ∧ nextTurn s = .hostWrite 0x42#32 := by decide

theorem witness_MarkedAndFinalStatesDoNotStep :
    Final State.reset ∧ step { State.reset with fault := some (.hypTrap 0#32 0#32) } = .fault (.hypTrap 0#32 0#32) ∧
    step { State.reset with refused := some .notSTC } = .refused .notSTC :=
  ⟨by unfold Final; decide, rfl, rfl⟩

theorem witness_FetchRefusals :
    step { a32 0#32 0#32 with pc := 0x8002#32 } = .refused .misalignedPC ∧
    step { t32 0#32 0#32 with itstate := 0xF8#8 } = .refused .launchITSTATE ∧
    step { a32 0#32 0#32 with pc := 0x7FFC#32 } = .refused .fetchOutsideProgram ∧
    step { t32 0#32 0#32 with pc := 0x9002#32 } = .refused .notSTC := ⟨rfl, rfl, rfl, rfl⟩

theorem witness_FetchRefusals_hypotheses :
    let s := { t32 0#32 0#32 with itstate := 0xF1#8 }
    s.fault = none ∧ s.refused = none ∧ s.pc.toNat ≠ s.progEnd ∧ nextTurn s = .pe ∧ PcAligned s ∧ s.pc = s.base ∧
    s.iset = .t32 ∧ s.itstate.toNat % 16 ≠ 0 ∧ s.itstate.toNat / 16 = 15 := by
  unfold PcAligned; decide

theorem witness_InvariantKeptByEveryStep :
    StateInv (a32 0x1000#32 1#32) ∧ ∃ t, step (a32 0x1000#32 1#32) = .next t :=
  ⟨by unfold StateInv PcAligned; decide, ⟨_, rfl⟩⟩

theorem witness_StepsStayOnTheProgram :
    OnProgram (a32 0x1000#32 1#32) ∧ (a32 0x1000#32 1#32).refused = none ∧ (a32 0x1000#32 1#32).progEnd < 2 ^ 32 := by
  unfold OnProgram PcAligned; decide

/-- Where the program ends at 2^32, its last instruction is refused as PCWrap. -/
theorem witness_StepsStayOnTheProgram_top :
    let s := { a32 0x1000#32 1#32 with pc := 0xFFFFFFFC#32, base := 0xFFFFFFFC#32, program := [0xED815E01#32] }
    OnProgram s ∧ s.progEnd = 2 ^ 32 ∧ step s = .refused .pcWrap :=
  ⟨by unfold OnProgram PcAligned; decide, by decide, rfl⟩

end Sys2Proof.Tests
end

section
/-! PROOFS. What the state the model calls reset holds: its marks, parameters and entry point (00_scope.md R6,
10_state.md R40). -/

namespace Sys2Proof.Machine

@[simp] theorem State.reset_fault : State.reset.fault = none := rfl

@[simp] theorem State.reset_refused : State.reset.refused = none := rfl

@[simp] theorem State.reset_params : State.reset.params = Params.default := rfl

/-- The entry point is the program's base (decision D21). -/
theorem State.reset_pc_eq_base : State.reset.pc = State.reset.base := rfl

/-- The defaults of 00_scope.md R6 that a decision names: D15, D14, D5 and D4, in this order. -/
theorem Params.default_specDefaults :
    Params.default.cuStcPc = .refuse ∧ Params.default.condFailPolicy = .either ∧
    Params.default.dccModel = .rxfull ∧ Params.default.bigEndData = false :=
  ⟨rfl, rfl, rfl, rfl⟩

/-- Settles O50: the parameters at reset are `Params.default`, and the marks and `pc` are read off the state. -/
theorem resetHasTheSpecsDefaults : Obligations.ResetHasTheSpecsDefaults := by
  unfold Obligations.ResetHasTheSpecsDefaults
  obtain ⟨hcu, hcond, hdcc, hbig⟩ := Params.default_specDefaults
  rw [State.reset_params]
  exact ⟨State.reset_fault, State.reset_refused, hcu, hcond, hdcc, hbig, State.reset_pc_eq_base⟩

end Sys2Proof.Machine
end

section
/-! PROOFS. What any instruction that answers a next state has done, in the terms of Safety.lean, and the statements
that follow from it: the frame (10_state.md R38), `pc` (R24, R25) and ITSTATE (R34). -/

namespace Sys2Proof.Safety

open Sys2Proof.Machine

/-- An instruction that answers a next state has advanced from `s`, or has stored to its target address outside the
program and, in a writeback row, written its base register; `d` counts the free values. -/
theorem exec_eq_next {i : Instr} {s t : State} (h : exec i s = .next t) :
    s.pc.toNat + 4 < 2 ^ 32 ∧ ∃ d, t = itAdvance ((s.withDraws d).withPc (s.pc + 4#32)) ∨
      isStc i = true ∧ (targetAddr i s).toNat % 4 = 0 ∧ touchesProgram s (targetAddr i s) = false ∧
      ∃ wback, (wback = true → (fieldsOf i).w = true) ∧
        t = itAdvance ((transferred (fieldsOf i) wback (s.withDraws d)).withPc (s.pc + 4#32)) := by
  rw [exec_eq_stc] at h
  obtain ⟨d, hskip | ⟨wback, hw, hu, hstore⟩⟩ := stc_eq_next h
  · obtain ⟨hpc, rfl⟩ := advance_eq_next.1 hskip
    exact ⟨hpc, d, .inl rfl⟩
  · obtain ⟨haligned, -, htouch, hpc, rfl⟩ := stcTransfer_eq_next.1 hstore
    rw [isUndefined_fieldsOf] at hu
    exact ⟨hpc, d, .inr ⟨by simpa using hu, (aligned_iff _).1 haligned, htouch, wback, fun hb => (hw hb).1, rfl⟩⟩

/-- What `exec_eq_next` says, in the terms of the effects: an instruction that answers a next state skips or stores. -/
theorem exec_next_effect {i : Instr} {s t : State} (h : exec i s = .next t) :
    SkipEffect s t ∨ isStc i = true ∧ ∃ d, StcEffect (s.withDraws d) t (targetAddr i s) ∧
      (t.x = s.x ∨ (fieldsOf i).w = true ∧ WroteReg s t (fieldsOf i).rn (offsetAddr (fieldsOf i) s)) := by
  obtain ⟨hpc, d, rfl | ⟨hstc, -, htouch, wback, hw, rfl⟩⟩ := exec_eq_next h
  · obtain ⟨t, ht, hskip, -⟩ := advance_completes (s.withDraws d) hpc
    obtain ⟨-, rfl⟩ := advance_eq_next.1 ht
    exact .inl hskip
  · obtain ⟨heffect, hx, hwrote⟩ := transferred_effect (fieldsOf i) wback (s.withDraws d) htouch
    refine .inr ⟨hstc, d, heffect, ?_⟩
    cases wback with
    | false => exact .inl (hx rfl)
    | true => exact .inr ⟨hw rfl, hwrote rfl⟩

/-- Executed or skipped, an instruction goes on at `pc + 4`, with ITSTATE as R34 says, and keeps what no STC writes. -/
theorem exec_next_keeps {i : Instr} {s t : State} (h : exec i s = .next t) :
    t.pc = s.pc + 4#32 ∧ t.itstate = itstateAfter s ∧ KeptByStc s t := by
  rcases exec_next_effect h with ⟨hpc, hit, -, -, -, hkept⟩ | ⟨-, d, ⟨-, -, -, hpc, hit, hkept⟩, -⟩
  · exact ⟨hpc, hit, hkept⟩
  · exact ⟨hpc, hit, hkept⟩

/-- The new `pc` as a number: the addition has not wrapped (10_state.md R25). -/
theorem exec_next_pc {i : Instr} {s t : State} (h : exec i s = .next t) :
    s.pc.toNat + 4 < 2 ^ 32 ∧ t.pc.toNat = s.pc.toNat + 4 := by
  have hlt := (exec_eq_next h).1
  refine ⟨hlt, ?_⟩
  rw [(exec_next_keeps h).1, BitVec.toNat_add_of_lt (by simpa using hlt)]
  rfl

/-- An STC writes the base register of a writeback row and no other. -/
theorem exec_next_x {i : Instr} {s t : State} (h : exec i s = .next t) {k : Nat} (hk : k < 15)
    (hbase : ¬ ((fieldsOf i).w = true ∧ k = (fieldsOf i).rn.val)) : t.x[k] = s.x[k] := by
  rcases exec_next_effect h with ⟨-, -, hx, -⟩ | ⟨-, d, -, hx | ⟨hw, hwrote⟩⟩
  · rw [hx]
  · rw [hx]
  · rw [hwrote k hk, if_neg fun hkn => hbase ⟨hw, hkn⟩]

/-- An STC changes no byte outside the four at its target address. -/
theorem exec_next_readByte {i : Instr} {s t : State} (h : exec i s = .next t) {a : Nat}
    (ha : ¬ ((targetAddr i s).toNat ≤ a ∧ a < (targetAddr i s).toNat + 4)) : t.readByte a = s.readByte a := by
  rcases exec_next_effect h with ⟨-, -, -, hmem, -⟩ | ⟨-, d, ⟨hstored, -⟩, -⟩
  · exact hmem a
  · rw [hstored a, if_neg ha]
    rfl

/-- RXfull after an STC: untouched by a skip, else as the read of DBGDTRRXint leaves it (10_state.md R31). -/
theorem exec_next_rxfull {i : Instr} {s t : State} (h : exec i s = .next t) :
    t.rxfull = s.rxfull ∨ t.rxfull = rxfullAfter s := by
  rcases exec_next_effect h with ⟨-, -, -, -, hrx, -⟩ | ⟨-, d, ⟨-, hrx, -⟩, -⟩
  · exact .inl hrx
  · exact .inr hrx

/-- An UNDEFINED pattern that answers a next state has been skipped. -/
theorem exec_next_undefined {i : Instr} {s t : State} (h : exec i s = .next t) (hi : isStc i = false) :
    SkipEffect s t :=
  (exec_next_effect h).resolve_right fun hstore => by simp [hi] at hstore

/-- Settles O14: the ITSTATE part of `exec_next_keeps`. -/
theorem itstateAfterEveryStc : Obligations.ItstateAfterEveryStc := by
  intro i s t h
  obtain ⟨-, hit, -⟩ := exec_next_keeps h
  exact hit

/-- Settles O37: the `pc` of `exec_next_pc`, and the instruction set among what no STC writes. -/
theorem pcAfterEveryStc : Obligations.PcAfterEveryStc := by
  intro i s t h
  obtain ⟨hlt, hpc⟩ := exec_next_pc h
  obtain ⟨-, -, hiset, -⟩ := exec_next_keeps h
  exact ⟨hlt, hpc, hiset⟩

/-- Settles O36: one lemma on what `exec` leaves for each clause. -/
theorem frameOfEveryStc : Obligations.FrameOfEveryStc := by
  intro i s t h
  obtain ⟨hpc, hit, hkept⟩ := exec_next_keeps h
  refine ⟨hkept, hpc, hit, exec_next_rxfull h, fun k hk hbase => exec_next_x h hk hbase,
    fun a ha => exec_next_readByte h ha, fun hi => ?_⟩
  obtain ⟨-, -, hx, hmem, hrx, -⟩ := exec_next_undefined h hi
  exact ⟨hmem, hx, hrx⟩

end Sys2Proof.Safety
end
section
/-! PROOFS. The condition an instruction is under (10_state.md R28, R34) and register 15 (R22). -/

namespace Sys2Proof.Safety

open Sys2Proof.Machine

/-- The low half of ITSTATE is 0 outside an IT block (10_state.md R34). -/
theorem itLow_eq_zero_iff (it : BitVec 8) : it.extractLsb' 0 4 = 0#4 ↔ it.toNat % 16 = 0 := by
  rw [← BitVec.toNat_inj]
  simp

/-- The high half of ITSTATE as a number. -/
theorem itHigh_toNat (it : BitVec 8) : (it.extractLsb' 4 4).toNat = it.toNat / 16 := by
  have := it.isLt
  simp only [BitVec.extractLsb'_toNat, Nat.shiftRight_eq_div_pow]
  omega

theorem currentCond_a32 {cond : Cond} {s : State} (h : s.iset = .a32) : currentCond cond s = cond := by
  simp [currentCond, h]

theorem currentCond_t32 {cond : Cond} {s : State} (h : s.iset = .t32) :
    currentCond cond s =
      if s.itstate.toNat % 16 = 0 then .al else Cond.ofBits (s.itstate.extractLsb' 4 4) := by
  simp [currentCond, h, itLow_eq_zero_iff]

/-- Settles O13: by instruction set, and in T32 by whether an IT block is open. -/
theorem currentCondition : Obligations.CurrentCondition := by
  intro cond s
  refine ⟨currentCond_a32, fun hiset hout => ?_, fun hiset hin => ?_⟩
  · rw [currentCond_t32 hiset, if_pos hout]
  · rw [currentCond_t32 hiset, if_neg hin, Cond.toBits_ofBits, itHigh_toNat]

/-- Settles O12: row by row, each condition is its boolean function of the flags. -/
theorem conditionTable : Obligations.ConditionTable := by
  intro s
  simp [conditionHolds]

/-- Register 15 is not in the register file (10_state.md R22). -/
@[simp] theorem readReg_fifteen (s : State) : readReg s 15 = s.pc + 8#32 := rfl

/-- A write to register 15 is discarded (log 14). -/
@[simp] theorem writeReg_fifteen (s : State) (v : Word) : writeReg s 15 v = s := rfl

theorem readReg_of_lt (s : State) {k : Nat} (h : k < 15) : readReg s ⟨k, by omega⟩ = s.x[k] :=
  dif_pos h

/-- Settles O23: the rules of the two register operations, by number. -/
theorem registerFifteenReadsPcPlus8 : Obligations.RegisterFifteenReadsPcPlus8 := by
  intro s v
  exact ⟨readReg_fifteen s, writeReg_fifteen s v, fun k h => readReg_of_lt s h⟩

end Sys2Proof.Safety
end

section
/-! PROOFS. The refusal PCWrap (10_state.md R25, log 17): where an instruction that would complete or skip is refused,
and that it is refused so nowhere else. -/

namespace Sys2Proof.Safety

open Sys2Proof.Machine

theorem advance_of_wrap {s : State} (h : 2 ^ 32 ≤ s.pc.toNat + 4) : advance s = .refused .pcWrap :=
  advance_eq_refused.2 ⟨by omega, rfl⟩

theorem advance_ne_pcWrap {s : State} (h : s.pc.toNat + 4 < 2 ^ 32) : advance s ≠ .refused .pcWrap :=
  fun hwrap => (advance_eq_refused.1 hwrap).1 h

/-- A store that passes its three checks (20_memory.md R53) leaves only the advance to be refused. -/
theorem stcTransfer_of_admitted {f : Fields} {instr : Word} {wback : Bool} {s : State}
    (haligned : (storeAddr f s).toNat % 4 = 0) (hadmit : memAborts s (storeAddr f s) 4 = false)
    (htouch : touchesProgram s (storeAddr f s) = false) :
    stcTransfer f instr wback s = advance (transferred f wback s) := by
  have hstore := memWrite_eq_next (instr := instr) (v := (readDtrrx s).1) (s := (readDtrrx s).2).2
    ⟨(aligned_iff _).2 haligned, by simpa using hadmit, by simpa using htouch, rfl⟩
  rw [stcTransfer, hstore, andThen_next]
  simp [transferred]

theorem stcTransfer_ne_pcWrap {f : Fields} {instr : Word} {wback : Bool} {s : State}
    (h : s.pc.toNat + 4 < 2 ^ 32) : stcTransfer f instr wback s ≠ .refused .pcWrap := by
  intro hwrap
  unfold stcTransfer at hwrap
  cases hm : memWrite instr (storeAddr f s) (readDtrrx s).1 (readDtrrx s).2 with
  | next m =>
    obtain ⟨-, -, -, rfl⟩ := memWrite_eq_next.1 hm
    rw [hm, andThen_next] at hwrap
    refine advance_ne_pcWrap ?_ hwrap
    cases wback <;> simpa using h
  | fault r => simp [hm] at hwrap
  | refused r =>
    rw [memWrite_eq_refused hm] at hm
    simp [hm] at hwrap

theorem stcAccess_ne_pcWrap {f : Fields} {instr : Word} {wback : Bool} {s : State}
    (h : s.pc.toNat + 4 < 2 ^ 32) : stcAccess f instr wback s ≠ .refused .pcWrap := by
  unfold stcAccess raise
  split
  · simp
  · split
    · simp
    · exact stcTransfer_ne_pcWrap h

theorem stcPassed_ne_pcWrap {f : Fields} {instr : Word} {s : State} (h : s.pc.toNat + 4 < 2 ^ 32) :
    stcPassed f instr s ≠ .refused .pcWrap := by
  unfold stcPassed
  split
  · simp [raise]
  · split
    · unfold stcUnpredictable
      split
      · simp [raise]
      · exact advance_ne_pcWrap h
      · exact stcAccess_ne_pcWrap h
      all_goals simp
    · exact stcAccess_ne_pcWrap h

/-- Where `pc + 4` fits, no instruction is refused as PCWrap. -/
theorem exec_ne_pcWrap {i : Instr} {s : State} (h : s.pc.toNat + 4 < 2 ^ 32) : exec i s ≠ .refused .pcWrap := by
  rw [exec_eq_stc, stc]
  split
  · exact stcPassed_ne_pcWrap h
  · unfold stcFailed
    split
    · split
      · exact advance_ne_pcWrap h
      · split
        · exact stcPassed_ne_pcWrap h
        · exact advance_ne_pcWrap h
    · exact advance_ne_pcWrap h

/-- R141, R142 under `CU_STC_PC = nop`: the instruction only advances. -/
theorem exec_of_unpredictable_nop {i : Instr} {s : State} (hstc : isStc i = true)
    (hpass : conditionPassed (fieldsOf i).cond s = true) (hun : isUnpredictable (fieldsOf i) s = true)
    (hnop : s.params.cuStcPc = .nop) : exec i s = advance s := by
  rw [exec_of_passed hpass, stcPassed, isUndefined_fieldsOf, hstc, if_neg (by simp), if_pos hun]
  simp [stcUnpredictable, hnop]

/-- R135 where nothing but the skip is permitted. -/
theorem stcFailed_eq_advance {f : Fields} {instr : Word} {s : State}
    (h : stcPeculiar f s = false ∨ s.params.condFailPolicy = .nop) : stcFailed f instr s = advance s := by
  unfold stcFailed
  rcases h with h | h <;> simp [h]

/-- R135 under `CondFailPolicy = either`: the skip, or the outcome of the condition passed (D14). -/
theorem stcFailed_either {f : Fields} {instr : Word} {s : State} (hpec : stcPeculiar f s = true)
    (heither : s.params.condFailPolicy = .either) :
    stcFailed f instr s = advance (s.withDraws (s.draws + 1)) ∨
      stcFailed f instr s = stcPassed f instr (s.withDraws (s.draws + 1)) := by
  unfold stcFailed
  cases hdraw : Config.condFailDraw s.draws <;> simp [hpec, heither]

/-- Settles O33: on each of the four paths the outcome is an advance, or under `either` one of two. -/
theorem pcWrapIsRefused : Obligations.PcWrapIsRefused := by
  intro i s hwrap
  refine ⟨fun hexec hperm htrap haligned hadmit htouch => ?_, fun hstc hpass hun hnop => ?_,
    fun hfail hskip => ?_, fun hfail hpec heither => ?_⟩
  · rw [exec_of_executes hexec, stcAccess, if_neg (by simp [hperm]), if_neg (by simp [htrap]),
      stcTransfer_of_admitted haligned hadmit (touchesProgram_eq_false.2 htouch),
      advance_of_wrap (by simpa using hwrap)]
  · rw [exec_of_unpredictable_nop hstc hpass hun hnop, advance_of_wrap hwrap]
  · rw [exec_of_failed hfail, stcFailed_eq_advance hskip, advance_of_wrap hwrap]
  · rw [exec_of_failed hfail]
    refine (stcFailed_either hpec heither).imp_left fun hadv => ?_
    exact hadv.trans (advance_of_wrap hwrap)

end Sys2Proof.Safety
end

section
/-! PROOFS. CPSR.DIT (10_state.md R29, 40_stc.md R146): every operation commutes with a change of it. -/

namespace Sys2Proof.Safety

open Sys2Proof.Machine

/-- The state with another CPSR.DIT. -/
def withDit (b : Bool) (s : State) : State :=
  { s with dit := b }

section
variable (b : Bool) (s : State)

@[simp] theorem withDit_pc : (withDit b s).pc = s.pc := rfl

@[simp] theorem withDit_draws : (withDit b s).draws = s.draws := rfl

theorem withDit_withPc (v : Word) : (withDit b s).withPc v = withDit b (s.withPc v) := rfl

theorem withDit_withDraws (d : Nat) : (withDit b s).withDraws d = withDit b (s.withDraws d) := rfl

/-- The predicates of the environment do not see CPSR.DIT (log 25). -/
@[simp] theorem sysRegPermitted_withDit : sysRegPermitted (withDit b s) = sysRegPermitted s := rfl

@[simp] theorem hypTrapped_withDit : hypTrapped (withDit b s) = hypTrapped s := rfl

@[simp] theorem memAborts_withDit (addr : Word) (n : Nat) : memAborts (withDit b s) addr n = memAborts s addr n := rfl

@[simp] theorem touchesProgram_withDit (addr : Word) : touchesProgram (withDit b s) addr = touchesProgram s addr := rfl

theorem writeReg_withDit (n : RegNum) (v : Word) : writeReg (withDit b s) n v = withDit b (writeReg s n v) := by
  unfold writeReg
  split <;> rfl

theorem itAdvance_withDit : itAdvance (withDit b s) = withDit b (itAdvance s) := by
  cases s with | mk x pc iset => cases iset <;> rfl

/-- The read of DBGDTRRXint gives the same word. -/
theorem readDtrrx_withDit : readDtrrx (withDit b s) = ((readDtrrx s).1, withDit b (readDtrrx s).2) := by
  have hdcc : (withDit b s).params.dccModel = s.params.dccModel := rfl
  have hrx : (withDit b s).rxfull = s.rxfull := rfl
  unfold readDtrrx
  rw [hdcc, hrx]
  split
  · rfl
  · split <;> rfl

theorem advance_withDit : advance (withDit b s) = mapNext (withDit b) (advance s) := by
  unfold advance
  rw [withDit_pc, withDit_withPc, itAdvance_withDit, apply_ite (mapNext (withDit b))]
  rfl

theorem memWrite_withDit (instr addr v : Word) :
    memWrite instr addr v (withDit b s) = mapNext (withDit b) (memWrite instr addr v s) := by
  simp only [memWrite, memAborts_withDit, touchesProgram_withDit, apply_ite (mapNext (withDit b))] <;> rfl

/-- A sequence commutes with a change of the state where its two parts do. -/
theorem andThen_mapNext {g : State → State} {k k' : State → Outcome} (hk : ∀ t, k' (g t) = mapNext g (k t))
    (o : Outcome) : andThen (mapNext g o) k' = mapNext g (andThen o k) := by
  cases o with
  | next t => exact hk t
  | fault r => rfl
  | refused r => rfl

variable (f : Fields) (instr : Word) (wback : Bool)

theorem stcTransfer_withDit :
    stcTransfer f instr wback (withDit b s) = mapNext (withDit b) (stcTransfer f instr wback s) := by
  unfold stcTransfer
  rw [readDtrrx_withDit]
  change andThen (memWrite instr (storeAddr f s) (readDtrrx s).1 (withDit b (readDtrrx s).2)) _ = _
  rw [memWrite_withDit]
  refine andThen_mapNext (fun t => ?_) _
  rw [← advance_withDit]
  cases wback
  · rfl
  · exact congrArg advance (writeReg_withDit b t f.rn (offsetAddr f s))

theorem stcAccess_withDit :
    stcAccess f instr wback (withDit b s) = mapNext (withDit b) (stcAccess f instr wback s) := by
  simp only [stcAccess, sysRegPermitted_withDit, hypTrapped_withDit, stcTransfer_withDit,
    apply_ite (mapNext (withDit b))] <;> rfl

theorem stcUnpredictable_withDit :
    stcUnpredictable f instr (withDit b s) = mapNext (withDit b) (stcUnpredictable f instr s) := by
  have hcu : (withDit b s).params.cuStcPc = s.params.cuStcPc := rfl
  have hiset : (withDit b s).iset = s.iset := rfl
  unfold stcUnpredictable
  rw [hcu, hiset, advance_withDit, stcAccess_withDit]
  split <;> rfl

theorem stcPassed_withDit : stcPassed f instr (withDit b s) = mapNext (withDit b) (stcPassed f instr s) := by
  have hun : isUnpredictable f (withDit b s) = isUnpredictable f s := rfl
  unfold stcPassed
  simp only [hun, stcUnpredictable_withDit, stcAccess_withDit, apply_ite (mapNext (withDit b))] <;> rfl

theorem stcFailed_withDit : stcFailed f instr (withDit b s) = mapNext (withDit b) (stcFailed f instr s) := by
  have hpec : stcPeculiar f (withDit b s) = stcPeculiar f s := rfl
  have hpolicy : (withDit b s).params.condFailPolicy = s.params.condFailPolicy := rfl
  unfold stcFailed
  rw [hpec, hpolicy, withDit_draws, withDit_withDraws, stcPassed_withDit, advance_withDit, advance_withDit]
  split
  · split
    · rfl
    · split <;> rfl
  · rfl

theorem exec_withDit (i : Instr) : exec i (withDit b s) = mapNext (withDit b) (exec i s) := by
  have hcond : conditionPassed (fieldsOf i).cond (withDit b s) = conditionPassed (fieldsOf i).cond s := rfl
  cases h : conditionPassed (fieldsOf i).cond s
  · rw [exec_of_failed h, exec_of_failed (hcond.trans h), stcFailed_withDit]
  · rw [exec_of_passed h, exec_of_passed (hcond.trans h), stcPassed_withDit]

/-- No move is made from a halted state, so its answer is no next state. -/
theorem mapNext_of_halted {s : State} {o : Outcome} (h : halted s = some o) (g : State → State) :
    mapNext g o = o := by
  unfold halted at h
  split at h
  · cases h; rfl
  · cases h; rfl
  · split at h
    · cases h; rfl
    · simp at h

theorem step_withDit : step (withDit b s) = mapNext (withDit b) (step s) := by
  have hhalted : halted (withDit b s) = halted s := rfl
  have hturn : nextTurn (withDit b s) = nextTurn s := rfl
  have hfetch : fetch (withDit b s) = fetch s := rfl
  have htake : takeTurn (withDit b s) = withDit b (takeTurn s) := rfl
  unfold step
  rw [hhalted, hturn, hfetch, htake]
  split
  · next o ho => exact (mapNext_of_halted ho _).symm
  · split
    · rfl
    · split
      · rfl
      · exact exec_withDit b _ _

end

/-- Settles O39: `exec` and `step` commute with `withDit`. -/
theorem ditActsOnNothing : Obligations.DitActsOnNothing := by
  intro s b
  exact ⟨exec_withDit b s, step_withDit b s⟩

end Sys2Proof.Safety
end
section
/-! PROOFS. What a step does before an instruction is known: marks and the end of the run (10_state.md R37, 70 R193),
and the refusals of the fetch (10_state.md R25, R34, 20_memory.md R59). -/

namespace Sys2Proof.Safety

open Sys2Proof.Machine

section
variable {s : State}

theorem step_of_halted {o : Outcome} (h : halted s = some o) : step s = o := by
  simp [step, h]

theorem halted_of_fault {f : Fault} (h : s.fault = some f) : halted s = some (.fault f) := by
  simp [halted, h]

theorem halted_of_refused {r : Refusal} (hf : s.fault = none) (hr : s.refused = some r) :
    halted s = some (.refused r) := by
  simp [halted, hf, hr]

theorem halted_of_final (h : Final s) : halted s = some (.refused .runEnded) := by
  obtain ⟨hf, hr, hpc⟩ := h
  simp [halted, hf, hr, hpc]

/-- The PE's turn with no instruction to execute. -/
theorem step_of_fetch_error {r : Refusal} (hhalted : halted s = none) (hturn : nextTurn s = .pe)
    (hfetch : fetch s = .error r) : step s = .refused r := by
  simp [step, hhalted, hturn, hfetch]

/-- A step is refused by its mark, by the end of the run, by the fetch or by the instruction. -/
theorem step_eq_refused {r : Refusal} (h : step s = .refused r) :
    s.refused = some r ∨ r = .runEnded ∨ s.pc.toNat ≠ s.progEnd ∧
      (fetch s = .error r ∨ ∃ i, exec i (takeTurn s) = .refused r) := by
  unfold step at h
  split at h
  · next o ho =>
    subst h
    unfold halted at ho
    split at ho
    · simp at ho
    · next hr => exact .inl (by simpa [hr] using ho)
    · split at ho
      · exact .inr (.inl (by simpa [eq_comm] using ho))
      · simp at ho
  · next hn =>
    refine .inr (.inr ⟨(halted_eq_none.1 hn).2.2, ?_⟩)
    split at h
    · simp at h
    · split at h
      · next r' hr => exact .inl (by simpa [hr] using h)
      · next i _ => exact .inr ⟨i, h⟩

/-! ### The checks of the fetch -/

theorem pcMisaligned_eq_false : pcMisaligned s = false ↔ PcAligned s := by
  have half : s.pc.extractLsb' 0 1 = 0#1 ↔ s.pc.toNat % 2 = 0 := by
    rw [← BitVec.toNat_inj]
    simp
  unfold pcMisaligned PcAligned
  cases s.iset with
  | a32 => simp [aligned_iff]
  | t32 => simp [half]

/-- R34: a T32 launch state inside an IT block with condition 1111. -/
theorem launchITSTATEBad_eq_true :
    launchITSTATEBad s = true ↔
      s.pc = s.base ∧ s.iset = .t32 ∧ s.itstate.toNat % 16 ≠ 0 ∧ s.itstate.toNat / 16 = 15 := by
  have high : s.itstate.extractLsb' 4 4 = 0b1111#4 ↔ s.itstate.toNat / 16 = 15 := by
    rw [← BitVec.toNat_inj, itHigh_toNat]
    rfl
  simp [launchITSTATEBad, itLow_eq_zero_iff, high, and_assoc]

theorem fetch_of_misaligned (h : ¬ PcAligned s) : fetch s = .error .misalignedPC := by
  rw [← pcMisaligned_eq_false] at h
  simp [fetch, h]

theorem fetch_of_launchITSTATEBad (ha : PcAligned s) (hl : launchITSTATEBad s = true) :
    fetch s = .error .launchITSTATE := by
  simp [fetch, pcMisaligned_eq_false.2 ha, hl]

/-- Four bytes hold a whole instruction, or none, in either instruction set (30_encoding.md R80, R88). -/
theorem decodeBytes_ne_truncated (iset : InstrSet) {bytes : List Byte} (h : 4 ≤ bytes.length) :
    decodeBytes iset bytes ≠ .error .truncated := by
  match bytes, h with
  | b0 :: b1 :: b2 :: b3 :: rest, _ =>
    cases iset with
    | a32 =>
      simp only [decodeBytes]
      split <;> simp
    | t32 =>
      simp only [decodeBytes]
      split
      · split <;> simp
      · simp

theorem decodeBytes_nil (iset : InstrSet) : decodeBytes iset [] = .error .truncated := by
  cases iset <;> rfl

/-- Outside the program there is nothing to fetch. -/
theorem programBytes_eq_nil {a : Nat} (h : ¬ (s.base.toNat ≤ a ∧ a < s.progEnd)) (n : Nat) :
    programBytes s a n = [] := by
  cases n with
  | zero => rfl
  | succ n => simp [programBytes, programByte_eq_none.2 h]

/-- Inside the program a fetch is never cut short. -/
theorem programBytes_length {a n : Nat} (hlo : s.base.toNat ≤ a) (hhi : a + n ≤ s.progEnd) :
    (programBytes s a n).length = n := by
  induction n generalizing a with
  | zero => rfl
  | succ n ih =>
    have hin : programByte s a ≠ none := fun hnone => programByte_eq_none.1 hnone ⟨hlo, by omega⟩
    obtain ⟨b, hb⟩ := Option.ne_none_iff_exists'.1 hin
    simp [programBytes, hb, ih (a := a + 1) (by omega) (by omega)]

theorem fetch_outside (ha : PcAligned s) (hl : launchITSTATEBad s = false)
    (hout : ¬ (s.base.toNat ≤ s.pc.toNat ∧ s.pc.toNat < s.progEnd)) : fetch s = .error .fetchOutsideProgram := by
  simp [fetch, pcMisaligned_eq_false.2 ha, hl, programBytes_eq_nil hout, decodeBytes_nil]

/-- Every refusal of the fetch, with what it tells of the state. -/
theorem fetch_eq_error {r : Refusal} (h : fetch s = .error r) :
    (r = .misalignedPC ∧ ¬ PcAligned s) ∨ r = .launchITSTATE ∨ r = .notSTC ∨
      (r = .fetchOutsideProgram ∧ decodeBytes s.iset (programBytes s s.pc.toNat 4) = .error .truncated) := by
  unfold fetch at h
  split at h
  · next hmis =>
    refine .inl ⟨by simpa [eq_comm] using h, ?_⟩
    rw [← pcMisaligned_eq_false]
    simp [hmis]
  · split at h
    · exact .inr (.inl (by simpa [eq_comm] using h))
    · split at h
      · simp at h
      · exact .inr (.inr (.inl (by simpa [eq_comm] using h)))
      · next htrunc => exact .inr (.inr (.inr ⟨by simpa [eq_comm] using h, htrunc⟩))

end

/-- Settles O46: the three kinds of halted state, and the mark `settle` sets. -/
theorem markedAndFinalStatesDoNotStep : Obligations.MarkedAndFinalStatesDoNotStep := by
  intro s
  refine ⟨fun f hf => step_of_halted (halted_of_fault hf), fun r hf hr => step_of_halted (halted_of_refused hf hr),
    fun hfinal => step_of_halted (halted_of_final hfinal), fun f hstep => ?_, fun r hstep => ?_⟩
  · rw [hstep]; rfl
  · rw [hstep]; rfl

/-- Settles O47: the three answers of `fetch`, carried to the step. -/
theorem fetchRefusals : Obligations.FetchRefusals := by
  intro s hf hr hpc hturn
  have hhalted := halted_eq_none.2 ⟨hf, hr, hpc⟩
  refine ⟨fun hmis => ?_, fun ha hbase hiset hlow hhigh => ?_, fun ha hl hout => ?_⟩
  · exact step_of_fetch_error hhalted hturn (fetch_of_misaligned hmis)
  · exact step_of_fetch_error hhalted hturn
      (fetch_of_launchITSTATEBad ha (launchITSTATEBad_eq_true.2 ⟨hbase, hiset, hlow, hhigh⟩))
  · exact step_of_fetch_error hhalted hturn (fetch_outside ha hl (by omega))

end Sys2Proof.Safety
end

section
/-! PROOFS. What every step keeps, and what it brings to an end: the launch values (10_state.md R38), the invariant
(R25, R34, R50), the place on the program (70 R191) and the bound on a run (R193). -/

namespace Sys2Proof.Safety

open Sys2Proof.Machine

/-- What neither agent writes (10_state.md R38): the launch values, and no mark. -/
def KeptByStep (s t : State) : Prop :=
  t.iset = s.iset ∧ t.flagN = s.flagN ∧ t.flagZ = s.flagZ ∧ t.flagC = s.flagC ∧ t.flagV = s.flagV ∧
  t.dit = s.dit ∧ t.mode = s.mode ∧ t.nonsecure = s.nonsecure ∧ t.program = s.program ∧ t.base = s.base ∧
  t.params = s.params ∧ t.fault = none ∧ t.refused = none

/-- How a step moves `pc` and uses up turns: a host move takes a turn, an instruction goes on at `pc + 4`. -/
def Progress (s t : State) : Prop :=
  (t.pc = s.pc ∧ t.schedule.length < s.schedule.length) ∨
    (t.pc.toNat = s.pc.toNat + 4 ∧ t.schedule.length ≤ s.schedule.length)

section
variable {s t : State}

theorem step_next_keeps (h : step s = .next t) : KeptByStep s t := by
  obtain ⟨hhalted, ⟨v, -, rfl⟩ | ⟨i, -, -, hexec⟩⟩ := step_eq_next h
  all_goals obtain ⟨hf, hr, -⟩ := halted_eq_none.1 hhalted
  · simp [KeptByStep, hf, hr]
  · obtain ⟨-, -, hkept⟩ := exec_next_keeps hexec
    obtain ⟨hiset, hN, hZ, hC, hV, hdit, -, hmode, hns, hfault, hrefused, hprog, hbase, hparams, -⟩ := hkept
    exact ⟨hiset, hN, hZ, hC, hV, hdit, hmode, hns, hprog, hbase, hparams, hfault.trans hf, hrefused.trans hr⟩

/-- The host has a turn only where one stands in the schedule. -/
theorem nextTurn_eq_hostWrite {v : Word} (h : nextTurn s = .hostWrite v) :
    s.schedule.tail.length < s.schedule.length := by
  unfold nextTurn at h
  split at h
  · simp at h
  · next hs => simp [hs]

/-- The turns to come are the machine's own: no instruction touches them (log 7). -/
theorem exec_next_schedule {i : Instr} (h : exec i s = .next t) : t.schedule = s.schedule := by
  obtain ⟨-, -, -, -, -, -, -, -, -, -, -, -, -, -, -, -, hsched⟩ := exec_next_keeps h
  exact hsched

theorem step_next_progress (h : step s = .next t) : Progress s t := by
  obtain ⟨-, ⟨v, hturn, rfl⟩ | ⟨i, -, -, hexec⟩⟩ := step_eq_next h
  · exact .inl ⟨rfl, nextTurn_eq_hostWrite hturn⟩
  · have hsched : t.schedule = s.schedule.tail := exec_next_schedule hexec
    exact .inr ⟨(exec_next_pc hexec).2, by simp [hsched]⟩

/-- DBGDTRRXint changes only when the host moves (60_exceptions.md R175). -/
theorem step_next_dtrrx (h : step s = .next t) (hne : t.dtrrx ≠ s.dtrrx) :
    ∃ v, nextTurn s = .hostWrite v ∧ t.dtrrx = v := by
  obtain ⟨-, ⟨v, hturn, rfl⟩ | ⟨i, -, -, hexec⟩⟩ := step_eq_next h
  · exact ⟨v, hturn, rfl⟩
  · obtain ⟨-, -, -, -, -, -, -, -, hdtrrx, -⟩ := exec_next_keeps hexec
    exact absurd hdtrrx hne

/-- Inside the program the machine holds the program's bytes (20_memory.md R59). -/
theorem readByte_of_inProgram {a : Nat} (hlo : s.base.toNat ≤ a) (hhi : a < s.progEnd) :
    s.readByte a = programByte s a := by
  have hin : programByte s a ≠ none := fun hnone => programByte_eq_none.1 hnone ⟨hlo, hhi⟩
  obtain ⟨b, hb⟩ := Option.ne_none_iff_exists'.1 hin
  simp [State.readByte, hb]

/-- `End` moves with nothing a step writes. -/
theorem KeptByStep.progEnd (h : KeptByStep s t) : t.progEnd = s.progEnd := by
  obtain ⟨-, -, -, -, -, -, -, -, hprog, hbase, -⟩ := h
  simp [State.progEnd, hprog, hbase]

theorem KeptByStep.readByte (h : KeptByStep s t) {a : Nat} (hlo : s.base.toNat ≤ a) (hhi : a < s.progEnd) :
    t.readByte a = s.readByte a := by
  have hend := h.progEnd
  obtain ⟨hiset, -, -, -, -, -, -, -, hprog, hbase, -⟩ := h
  rw [readByte_of_inProgram hlo hhi, readByte_of_inProgram (by rwa [hbase]) (by rwa [hend]),
    programByte_congr hprog hbase hiset]

/-! ### The invariant -/

theorem transferred_mem (f : Fields) (wback : Bool) (s : State) :
    (transferred f wback s).mem =
      s.mem.writeBytes (storeAddr f s).toNat (wordBytes s.params.bigEndData (datum s)) := by
  cases wback <;> simp [transferred, readDtrrx_fst]

/-- A store stays inside the address space, so memory stays canonical (20_memory.md R50, R57). -/
theorem exec_next_memWf {i : Instr} (h : exec i s = .next t) (hwf : s.mem.wf = true) : t.mem.wf = true := by
  obtain ⟨-, d, rfl | ⟨-, haligned, -, wback, -, rfl⟩⟩ := exec_eq_next h
  · simpa using hwf
  · rw [itAdvance_mem, State.withPc_mem, transferred_mem]
    exact Memory.wf_writeBytes _ _ _ (by rw [wordBytes_length]; exact aligned_bound haligned) hwf

theorem step_next_memWf (h : step s = .next t) (hwf : s.mem.wf = true) : t.mem.wf = true := by
  obtain ⟨-, ⟨v, -, rfl⟩ | ⟨i, -, -, hexec⟩⟩ := step_eq_next h
  · exact hwf
  · exact exec_next_memWf hexec hwf

/-- Moving by no byte or by four keeps `pc` aligned in either instruction set. -/
theorem step_next_pcAligned (h : step s = .next t) (ha : PcAligned s) : PcAligned t := by
  obtain ⟨hiset, -⟩ := step_next_keeps h
  have hpc : t.pc.toNat = s.pc.toNat ∨ t.pc.toNat = s.pc.toNat + 4 :=
    (step_next_progress h).imp (fun hp => congrArg _ hp.1) And.left
  obtain ⟨ha32, ht32⟩ := ha
  refine ⟨fun hi => ?_, fun hi => ?_⟩
  · have := ha32 (hiset ▸ hi)
    omega
  · have := ht32 (hiset ▸ hi)
    omega

/-- No step moves ITSTATE in A32 (10_state.md R34). -/
theorem step_next_itstate_a32 (h : step s = .next t) (hi : s.iset = .a32) : t.itstate = s.itstate := by
  obtain ⟨-, ⟨v, -, rfl⟩ | ⟨i, -, -, hexec⟩⟩ := step_eq_next h
  · rfl
  · rw [(exec_next_keeps hexec).2.1]
    simp [itstateAfter, hi]

/-! ### Staying on the program -/

/-- On the program and not at its end, the whole word at `pc` lies in the program. -/
theorem OnProgram.word_inside (hon : OnProgram s) (hne : s.pc.toNat ≠ s.progEnd) : s.pc.toNat + 4 ≤ s.progEnd := by
  obtain ⟨-, hlo, hhi, hword, -⟩ := hon
  have hend : s.progEnd = s.base.toNat + 4 * s.program.length := rfl
  omega

theorem step_next_onProgram (hon : OnProgram s) (h : step s = .next t) : OnProgram t := by
  obtain ⟨-, -, hne⟩ := halted_eq_none.1 (step_eq_next h).1
  have hword_inside := hon.word_inside hne
  have hkept := step_next_keeps h
  have hend := hkept.progEnd
  have hbase : t.base.toNat = s.base.toNat := by
    obtain ⟨-, -, -, -, -, -, -, -, -, hbase, -⟩ := hkept
    rw [hbase]
  obtain ⟨ha, hlo, hhi, hword, hspace⟩ := hon
  refine ⟨step_next_pcAligned h ha, ?_⟩
  rcases step_next_progress h with ⟨hpc, -⟩ | ⟨hpc, -⟩
  · rw [hpc]
    omega
  · omega

/-- The refusals of an instruction: none is one of the fetch's, and `pcWrap` is one only where `pc + 4` does not fit. -/
theorem exec_refused_cases {i : Instr} {r : Refusal} (h : exec i s = .refused r) :
    (∃ c, r = .unpredictable c) ∨ r = .storeIntoProgram ∨ (r = .pcWrap ∧ 2 ^ 32 ≤ s.pc.toNat + 4) := by
  have wraps : r = .pcWrap → r = .pcWrap ∧ 2 ^ 32 ≤ s.pc.toNat + 4 := by
    rintro rfl
    exact ⟨rfl, not_lt.1 fun hlt => exec_ne_pcWrap hlt h⟩
  rcases exec_eq_refused h with hwrap | ⟨d, hpassed⟩
  · exact .inr (.inr (wraps hwrap))
  · rcases stcPassed_eq_refused hpassed with ⟨-, -, hun⟩ | hstore | hwrap
    · exact .inl ⟨_, hun⟩
    · exact .inr (.inl hstore)
    · exact .inr (.inr (wraps hwrap))

/-- Every refusal of a step from an unmarked state on its program; `pcWrap` is one only where the program ends at 2^32
(log 30). -/
theorem OnProgram.step_refused_cases {r : Refusal} (hon : OnProgram s) (hr : s.refused = none)
    (h : step s = .refused r) :
    r = .runEnded ∨ r = .launchITSTATE ∨ r = .notSTC ∨ (∃ c, r = .unpredictable c) ∨ r = .storeIntoProgram ∨
      (r = .pcWrap ∧ s.progEnd = 2 ^ 32) := by
  rcases step_eq_refused h with hmark | hend | ⟨hne, hfetch | ⟨i, hexec⟩⟩
  · simp [hr] at hmark
  · exact .inl hend
  · have hinside := hon.word_inside hne
    obtain ⟨ha, hlo, -⟩ := hon
    rcases fetch_eq_error hfetch with ⟨-, hmis⟩ | hlaunch | hstc | ⟨-, htrunc⟩
    · exact absurd ha hmis
    · exact .inr (.inl hlaunch)
    · exact .inr (.inr (.inl hstc))
    · exact absurd htrunc (decodeBytes_ne_truncated _ (programBytes_length hlo hinside).ge)
  · have hinside := hon.word_inside hne
    obtain ⟨-, -, -, -, hspace⟩ := hon
    refine .inr (.inr (.inr ((exec_refused_cases hexec).imp_right (Or.imp_right fun ⟨hwrap, hpc⟩ => ?_))))
    rw [takeTurn_pc] at hpc
    exact ⟨hwrap, by omega⟩

/-! ### The bound on a run -/

/-- Every step leaves less to do: `pc` rises, or a turn of the host is used up. -/
theorem remaining_decreases (h : step s = .next t) : remaining t < remaining s := by
  have := s.pc.isLt
  unfold remaining
  rcases step_next_progress h with ⟨hpc, hsched⟩ | ⟨hpc, hsched⟩
  · rw [hpc]
    omega
  · omega

end

/-- A run that goes on has made its first step. The states are of the host's interface, where `run` unfolds. -/
theorem run_succ_eq_next {n : Nat} {s t : Sys2Proof.core.State} (h : Host.Core.run Sys2Proof.core (n + 1) s = .next t) :
    ∃ s', step s = .next s' ∧ Host.Core.run Sys2Proof.core n s' = .next t := by
  rw [Host.Core.run] at h
  split at h
  · next s' hstep => exact ⟨s', hstep, h⟩
  · simp at h
  · simp at h

/-- A run of at least `remaining s` steps has stopped. -/
theorem run_ne_next_of_remaining_le {n : Nat} {s : State} (t : State) (hn : remaining s ≤ n) :
    Host.Core.run Sys2Proof.core n s ≠ .next t := by
  induction n generalizing s with
  | zero =>
    have := s.pc.isLt
    unfold remaining at hn
    omega
  | succ n ih =>
    intro h
    obtain ⟨s', hstep, hrun⟩ := run_succ_eq_next h
    have := remaining_decreases hstep
    exact ih (by omega) hrun

/-- Settles O48: memory, `pc` and ITSTATE each by their own lemma. -/
theorem invariantKeptByEveryStep : Obligations.InvariantKeptByEveryStep := by
  rintro s t ⟨hwf, ha, hit⟩ h
  obtain ⟨hiset, -⟩ := step_next_keeps h
  refine ⟨step_next_memWf h hwf, step_next_pcAligned h ha, fun hi => ?_⟩
  have hs : s.iset = .a32 := hiset ▸ hi
  rw [step_next_itstate_a32 h hs, hit hs]

/-- Settles O51: `KeptByStep`, with the program's bytes and DBGDTRRXint. -/
theorem noStepWritesTheLaunchValues : Obligations.NoStepWritesTheLaunchValues := by
  intro s t h
  have hkept := step_next_keeps h
  have hbytes := fun a hlo hhi => hkept.readByte (a := a) hlo hhi
  obtain ⟨hiset, hN, hZ, hC, hV, hdit, hmode, hns, hprog, hbase, hparams, hf, hr⟩ := hkept
  exact ⟨hiset, hN, hZ, hC, hV, hdit, hmode, hns, hprog, hbase, hparams, hf, hr, hbytes, step_next_dtrrx h⟩

/-- Settles O52: the next state by `step_next_onProgram`; the three refusals are not among those that are left, or
would put the program's end at 2^32. -/
theorem stepsStayOnTheProgram : Obligations.StepsStayOnTheProgram := by
  intro s hon
  refine ⟨fun t h => step_next_onProgram hon h, fun hr => ⟨fun h => ?_, fun h => ?_⟩, fun hr hlt h => ?_⟩
  · simpa using hon.step_refused_cases hr h
  · simpa using hon.step_refused_cases hr h
  · have htop : s.progEnd = 2 ^ 32 := by simpa using hon.step_refused_cases hr h
    omega

/-- Settles O53: `remaining s` steps are enough. -/
theorem everyRunEnds : Obligations.EveryRunEnds :=
  fun _ t => run_ne_next_of_remaining_le t le_rfl

end Sys2Proof.Safety
end

section
/-! PROOFS. An instruction's four bytes (20_memory.md R55): what the decoder reads from any four, and where the program
holds those of its words (R59). -/

namespace Sys2Proof

theorem extract_joinBytes_third (b0 b1 b2 b3 : Byte) : (joinBytes b0 b1 b2 b3).extractLsb' 16 8 = b2 := by
  apply BitVec.eq_of_getLsbD_eq
  intro i hi
  interval_cases i <;> simp [joinBytes]

theorem extract_joinBytes_fourth (b0 b1 b2 b3 : Byte) : (joinBytes b0 b1 b2 b3).extractLsb' 24 8 = b3 := by
  apply BitVec.eq_of_getLsbD_eq
  intro i hi
  interval_cases i <;> simp [joinBytes]

/-- A first halfword that announces no 32-bit instruction begins no T1 word (30_encoding.md R88). -/
theorem decodeT1_eq_none_of_firstOf32 {b0 b1 : Byte} (h : firstOf32 (joinHalfword b0 b1) = false) (b2 b3 : Byte) :
    decodeT1 (joinBytes b2 b3 b0 b1) = none := by
  have hclass : ¬ joinBytes b2 b3 b0 b1 &&& 0xFE50FF00#32 = 0xEC005E00#32 := fun hmask => by
    have hfirst := firstOf32_of_maskT1 _ hmask
    rw [extract_joinBytes_third, extract_joinBytes_fourth, h] at hfirst
    exact Bool.false_ne_true hfirst
  simp [decodeT1, isClassT1, hclass]

/-- Four bytes decode as the word they form; a T32 halfword that is no first half makes no difference (decision D6). -/
theorem decodeBytes_four (iset : InstrSet) (b0 b1 b2 b3 : Byte) (rest : List Byte) :
    decodeBytes iset (b0 :: b1 :: b2 :: b3 :: rest) =
      (decodeWord iset (if iset = .a32 then joinBytes b0 b1 b2 b3 else joinBytes b2 b3 b0 b1)).elim
        (.error .notSTC) fun i => .ok (i, rest) := by
  cases iset with
  | a32 =>
    simp only [decodeBytes, decodeWord, if_true]
    cases decodeA1 (joinBytes b0 b1 b2 b3) <;> rfl
  | t32 =>
    simp only [decodeBytes, decodeWord, reduceCtorEq, if_false]
    cases hfirst : firstOf32 (joinHalfword b0 b1) with
    | true =>
      rw [if_pos rfl]
      cases decodeT1 (joinBytes b2 b3 b0 b1) <;> rfl
    | false =>
      rw [decodeT1_eq_none_of_firstOf32 hfirst]
      rfl

/-- The bytes memory holds for a word decode as the word does. -/
theorem decodeBytes_wordToBytes (iset : InstrSet) (w : Word) (rest : List Byte) :
    decodeBytes iset (wordToBytes iset w ++ rest) =
      (decodeWord iset w).elim (.error .notSTC) fun i => .ok (i, rest) := by
  cases iset <;> simp [wordToBytes, decodeBytes_four]

/-- The round trip through the word: each encoding is its row's fields packed. -/
theorem decodeWord_encode {i : Instr} (h : i.wf = true) : decodeWord i.iset (encode i) = some i := by
  cases i with
  | stcA1Off cond u rn imm8 => exact decodeA1_packWord cond (by simpa [Instr.wf] using h) true u false rn imm8
  | stcA1Post cond u rn imm8 => exact decodeA1_packWord cond (by simpa [Instr.wf] using h) false u true rn imm8
  | stcA1Pre cond u rn imm8 => exact decodeA1_packWord cond (by simpa [Instr.wf] using h) true u true rn imm8
  | stcA1Unind cond rn option => exact decodeA1_packWord cond (by simpa [Instr.wf] using h) false true false rn option
  | stcA1Undefined cond rn imm8 => exact decodeA1_packWord cond (by simpa [Instr.wf] using h) false false false rn imm8
  | stcT1Off u rn imm8 => exact decodeT1_packWord true u false rn imm8
  | stcT1Post u rn imm8 => exact decodeT1_packWord false u true rn imm8
  | stcT1Pre u rn imm8 => exact decodeT1_packWord true u true rn imm8
  | stcT1Unind rn option => exact decodeT1_packWord false true false rn option
  | stcT1Undefined rn imm8 => exact decodeT1_packWord false false false rn imm8

/-- Settles O3: the bytes decode as the word, and the word as the instruction. -/
theorem decodeBytesOfEncodedInstruction : Obligations.DecodeBytesOfEncodedInstruction := by
  intro i rest h
  rw [decodeBytes_wordToBytes, decodeWord_encode h]
  rfl

end Sys2Proof

namespace Sys2Proof.Safety

open Sys2Proof.Machine

/-- Where the PE may fetch and the bytes at `pc` decode to nothing, the fetch is refused by name (decision D23). -/
theorem fetch_of_notSTC {s : State} (ha : PcAligned s) (hl : launchITSTATEBad s = false)
    (hdecode : decodeBytes s.iset (programBytes s s.pc.toNat 4) = .error .notSTC) : fetch s = .error .notSTC := by
  simp [fetch, pcMisaligned_eq_false.2 ha, hl, hdecode]

/-- Settles O7: the four bytes decode as the word they form, which is none of the class. -/
theorem notStcIsRefusedByName : Obligations.NotStcIsRefusedByName := by
  intro s b0 b1 b2 b3 hready hbytes hword
  obtain ⟨hf, hr, hpc, hturn, ha, hl⟩ := hready
  have hdecode : decodeBytes s.iset (programBytes s s.pc.toNat 4) = .error .notSTC := by
    rw [hbytes, decodeBytes_four, hword]
    rfl
  exact step_of_fetch_error (halted_eq_none.2 ⟨hf, hr, hpc⟩) hturn (fetch_of_notSTC ha hl hdecode)

/-! ### The program's words at their addresses -/

@[simp] theorem wordToBytes_length (iset : InstrSet) (w : Word) : (wordToBytes iset w).length = 4 := by
  cases iset <;> rfl

/-- Byte `j` of the program's `k`-th word stands at `Base + 4k + j` (20_memory.md R55, R59). -/
theorem programByte_of_word (s : State) {k j : Nat} (hk : k < s.program.length) (hj : j < 4) :
    programByte s (s.base.toNat + 4 * k + j) = (wordToBytes s.iset s.program[k])[j]? := by
  have hword : (s.base.toNat + 4 * k + j - s.base.toNat) / 4 = k := by omega
  have hbyte : (s.base.toNat + 4 * k + j - s.base.toNat) % 4 = j := by omega
  rw [programByte, if_pos (by omega), hword, hbyte, List.getElem?_eq_getElem hk]

/-- Bytes that the program holds one after the other are fetched as a list. -/
theorem programBytes_eq_of_programByte {s : State} {a : Nat} {bytes : List Byte}
    (h : ∀ j < bytes.length, programByte s (a + j) = bytes[j]?) : programBytes s a bytes.length = bytes := by
  induction bytes generalizing a with
  | nil => rfl
  | cons b rest ih =>
    have hhead : programByte s a = some b := h 0 (by simp)
    have htail : programBytes s (a + 1) rest.length = rest := ih fun j hj => by
      rw [Nat.add_assoc, Nat.add_comm 1 j, h (j + 1) (by simpa using hj), List.getElem?_cons_succ]
    simp [programBytes, hhead, htail]

/-- Settles O43: the four bytes from `Base + 4k` are those of word `k`, one by one. -/
theorem programWordStandsAtItsAddress : Obligations.ProgramWordStandsAtItsAddress := by
  intro s k hk
  simpa using programBytes_eq_of_programByte (bytes := wordToBytes s.iset s.program[k])
    fun j hj => programByte_of_word s hk (by simpa using hj)

end Sys2Proof.Safety
end

section
/-! PROOFS. The store's own checks (20_memory.md R53), in their order. -/

namespace Sys2Proof.Safety

open Sys2Proof.Machine

section transfer
variable {f : Fields} {s : State} (instr : Word) (wback : Bool)

/-- R53 step 1 (R56, decision D7). -/
theorem stcTransfer_of_misaligned (h : (storeAddr f s).toNat % 4 ≠ 0) :
    stcTransfer f instr wback s = .fault (.dataAbort .alignment (storeAddr f s) instr s.pc) := by
  simp [stcTransfer, memWrite, raise, aligned_iff, h]

/-- R53 step 2 (R61, decision D8). -/
theorem stcTransfer_of_memAborts (haligned : (storeAddr f s).toNat % 4 = 0)
    (h : memAborts s (storeAddr f s) 4 = true) :
    stcTransfer f instr wback s = .fault (.dataAbort .platform (storeAddr f s) instr s.pc) := by
  simp [stcTransfer, memWrite, raise, aligned_iff, haligned, h]

/-- R53 step 3 (R65, decision D10). -/
theorem stcTransfer_of_touchesProgram (haligned : (storeAddr f s).toNat % 4 = 0)
    (hadmit : memAborts s (storeAddr f s) 4 = false) (h : touchesProgram s (storeAddr f s) = true) :
    stcTransfer f instr wback s = .refused .storeIntoProgram := by
  simp [stcTransfer, memWrite, aligned_iff, haligned, hadmit, h]

end transfer

/-- A store that meets a byte of the program touches it. -/
theorem touchesProgram_of_byte {s : State} {addr : Word}
    (h : ∃ k < 4, s.base.toNat ≤ addr.toNat + k ∧ addr.toNat + k < s.progEnd) : touchesProgram s addr = true := by
  obtain ⟨k, hk, hin⟩ := h
  exact Bool.of_not_eq_false fun hfalse => touchesProgram_eq_false.1 hfalse k hk hin

/-- Permitted and untrapped, an executing STC is its transfer (40_stc.md R143, R144, decision D19). -/
theorem exec_eq_stcTransfer {i : Instr} {s : State} (hexec : Executes i s) (hperm : sysRegPermitted s = true)
    (htrap : hypTrapped s = false) :
    exec i s =
      stcTransfer (fieldsOf i) (encode i) ((fieldsOf i).w && !isUnpredictable (fieldsOf i) s) s := by
  rw [exec_of_executes hexec, stcAccess, if_neg (by simp [hperm]), if_neg (by simp [htrap])]

/-- Settles O32: the instruction is its transfer, whose store stops at the first check that fails. -/
theorem storeChecksInOrder : Obligations.StoreChecksInOrder := by
  intro i s hexec hperm htrap
  rw [exec_eq_stcTransfer hexec hperm htrap]
  exact ⟨stcTransfer_of_misaligned _ _, stcTransfer_of_memAborts _ _,
    fun haligned hadmit hbyte => stcTransfer_of_touchesProgram _ _ haligned hadmit (touchesProgram_of_byte hbyte)⟩

end Sys2Proof.Safety
end

section
/-! PROOFS. Decoding in one sentence (30_encoding.md R86 to R88): a word decodes to the instruction of its class whose
fields stand in it, and to nothing outside the class. The round trips and the fields follow from it. -/

namespace Sys2Proof

open Sys2Proof.Machine

/-! ### The class of a word and its fields -/

/-- The constant bits of a class (R86). -/
def classMask : InstrSet → Word
  | .a32 => 0x0E50FF00#32
  | .t32 => 0xFE50FF00#32

/-- What the constant bits of a class hold (R86). -/
def classMatch : InstrSet → Word
  | .a32 => 0x0C005E00#32
  | .t32 => 0xEC005E00#32

/-- R86: the word belongs to the class of the instruction set. -/
def InClass (iset : InstrSet) (w : Word) : Prop :=
  w &&& classMask iset = classMatch iset ∧ (iset = .a32 → wordCond w ≠ 0b1111#4)

theorem inClass_a32_iff (w : Word) :
    InClass .a32 w ↔ w &&& 0x0E50FF00#32 = 0x0C005E00#32 ∧ wordCond w ≠ 0b1111#4 := by
  simp [InClass, classMask, classMatch]

theorem inClass_t32_iff (w : Word) : InClass .t32 w ↔ w &&& 0xFE50FF00#32 = 0xEC005E00#32 := by
  simp [InClass, classMask, classMatch]

/-- The fields that stand in a word (R81, R82); a T1 word has no cond and stands for AL. -/
def wordFields (iset : InstrSet) (w : Word) : Fields :=
  ⟨if iset = .a32 then Cond.ofBits (wordCond w) else .al, wordP w, wordU w, wordW w, wordRn w, wordImm8 w⟩

/-- An A1 instruction is the row its fields select (R84). -/
theorem eq_rowA1_iff (i : Instr) (f : Fields) :
    rowA1 f.cond f.p f.u f.w f.rn f.imm8 = i ↔ i.iset = .a32 ∧ fieldsOf i = f := by
  constructor
  · rintro rfl
    obtain ⟨cond, p, u, w, rn, imm8⟩ := f
    exact ⟨rowA1_iset .., by cases p <;> cases u <;> cases w <;> rfl⟩
  · rintro ⟨hset, rfl⟩
    cases i with
    | stcA1Off | stcA1Unind | stcA1Undefined => rfl
    | stcA1Post _ u | stcA1Pre _ u => cases u <;> rfl
    | stcT1Off | stcT1Post | stcT1Pre | stcT1Unind | stcT1Undefined => cases hset

/-- A T1 instruction is the row its fields select (R84); its cond is AL. -/
theorem eq_rowT1_iff (i : Instr) (f : Fields) (hal : f.cond = .al) :
    rowT1 f.p f.u f.w f.rn f.imm8 = i ↔ i.iset = .t32 ∧ fieldsOf i = f := by
  constructor
  · rintro rfl
    obtain ⟨cond, p, u, w, rn, imm8⟩ := f
    obtain rfl : cond = .al := hal
    exact ⟨rowT1_iset .., by cases p <;> cases u <;> cases w <;> rfl⟩
  · rintro ⟨hset, rfl⟩
    cases i with
    | stcT1Off | stcT1Unind | stcT1Undefined => rfl
    | stcT1Post u | stcT1Pre u => cases u <;> rfl
    | stcA1Off | stcA1Post | stcA1Pre | stcA1Unind | stcA1Undefined => cases hset

/-- What a word decodes to: the instruction of its class whose fields stand in it. -/
theorem decodeWord_eq_some_iff (iset : InstrSet) (w : Word) (i : Instr) :
    decodeWord iset w = some i ↔ InClass iset w ∧ i.iset = iset ∧ fieldsOf i = wordFields iset w := by
  cases iset with
  | a32 =>
    rw [← eq_rowA1_iff]
    simp [decodeWord, decodeA1, isClassA1, inClass_a32_iff, wordFields]
  | t32 =>
    rw [← eq_rowT1_iff _ _ rfl]
    simp [decodeWord, decodeT1, isClassT1, inClass_t32_iff, wordFields]

/-- A word decodes to nothing exactly outside its class. -/
theorem decodeWord_eq_none_iff (iset : InstrSet) (w : Word) : decodeWord iset w = none ↔ ¬ InClass iset w := by
  cases iset with
  | a32 => simp [decodeWord, decodeA1, isClassA1, inClass_a32_iff]
  | t32 => simp [decodeWord, decodeT1, isClassT1, inClass_t32_iff]

/-! ### The round trips -/

/-- The word of an instruction is its fields packed; in class T1 the AL of the fields is the 1110 of the diagram (R82). -/
theorem encode_eq_packWord (i : Instr) :
    encode i = packWord (fieldsOf i).cond.toBits (fieldsOf i).p (fieldsOf i).u (fieldsOf i).w (fieldsOf i).rn
      (fieldsOf i).imm8 := by
  cases i <;> rfl

theorem wf_eq_cond_ne_nv (i : Instr) : i.wf = ((fieldsOf i).cond != .nv) := by
  cases i <;> rfl

/-- A word of a class is its fields packed. -/
theorem packWord_wordFields {iset : InstrSet} {w : Word} (h : InClass iset w) :
    packWord (wordFields iset w).cond.toBits (wordP w) (wordU w) (wordW w) (wordRn w) (wordImm8 w) = w := by
  obtain ⟨hmask, -⟩ := h
  cases iset with
  | a32 => simpa [wordFields] using packWord_of_maskA1 w hmask
  | t32 =>
    obtain ⟨hmaskA1, hcond⟩ := (maskT1_iff w).1 hmask
    have hpack := packWord_of_maskA1 w hmaskA1
    rwa [hcond] at hpack

theorem ofBits_ne_nv {b : BitVec 4} (h : b ≠ 0b1111#4) : Cond.ofBits b ≠ .nv := fun hnv =>
  h (by rw [← Cond.toBits_ofBits b, hnv]; rfl)

/-- The cond field of a word of a class is never 1111. -/
theorem wordFields_cond_ne_nv {iset : InstrSet} {w : Word} (h : InClass iset w) : (wordFields iset w).cond ≠ .nv := by
  cases iset with
  | a32 => exact ofBits_ne_nv (h.2 rfl)
  | t32 => exact Cond.noConfusion

/-- Settles O1: the round trip through the word, row by row. -/
theorem decodeOfEncodedInstruction : Obligations.DecodeOfEncodedInstruction :=
  fun _ h => decodeWord_encode h

/-- Settles O2: the word is its fields packed, and the instruction has those fields. -/
theorem encodeOfDecodedWord : Obligations.EncodeOfDecodedWord := by
  intro iset w i h
  obtain ⟨hclass, hset, hfields⟩ := (decodeWord_eq_some_iff iset w i).1 h
  refine ⟨?_, ?_, hset⟩
  · rw [encode_eq_packWord, hfields]
    exact packWord_wordFields hclass
  · rw [wf_eq_cond_ne_nv, hfields]
    exact bne_iff_ne.2 (wordFields_cond_ne_nv hclass)

/-- Settles O5: the fields of the instruction are those of the word. -/
theorem fieldsOfDecodedWord : Obligations.FieldsOfDecodedWord := by
  intro iset w i h
  obtain ⟨-, -, hfields⟩ := (decodeWord_eq_some_iff iset w i).1 h
  rw [hfields]
  exact ⟨rfl, rfl, rfl, rfl, rfl, rfl⟩

/-- Settles O6: each of the nine words is decoded. -/
theorem specWordsDecode : Obligations.SpecWordsDecode := by
  unfold Obligations.SpecWordsDecode
  decide

end Sys2Proof
end

section
/-! PROOFS. The rows of a class (30_encoding.md R84, R86): their masks add P, W and, where both are 0, U to that of the
class. -/

namespace Sys2Proof

open Sys2Proof.Machine Sys2Proof.Laws.RowBits

/-- One more constant bit under a mask: the mask without it and the value of the bit. -/
theorem and_or_bit_eq_iff {x m v : Word} {k : Nat} (hk : k < 32) (hm : m.getLsbD k = false) (hv : v.getLsbD k = false)
    (b : Bool) :
    x &&& (m ||| BitVec.twoPow 32 k) = v ||| (bif b then BitVec.twoPow 32 k else 0#32) ↔
      x &&& m = v ∧ x.getLsbD k = b := by
  constructor
  · intro h
    have hbits := fun i => congrArg (BitVec.getLsbD · i) h
    constructor
    · apply BitVec.eq_of_getLsbD_eq
      intro i hi
      have hbit := hbits i
      by_cases hki : k = i
      · subst hki
        simp [hm, hv]
      · cases b <;> simpa [BitVec.getLsbD_twoPow, hki] using hbit
    · have hbit := hbits k
      cases b <;> simpa [BitVec.getLsbD_twoPow, hk, hv, -BitVec.getLsbD_eq_getElem] using hbit
  · rintro ⟨rfl, rfl⟩
    rw [BitVec.and_or_distrib_left, BitVec.and_twoPow]
    cases x.getLsbD k <;> rfl

/-- The mask of the rows that fix P and W alone. -/
def maskPW (iset : InstrSet) : Word :=
  classMask iset ||| BitVec.twoPow 32 24 ||| BitVec.twoPow 32 21

/-- The mask of the rows that fix U as well. -/
def maskPUW (iset : InstrSet) : Word :=
  maskPW iset ||| BitVec.twoPow 32 23

/-- The match of a row that fixes P and W alone. -/
def matchPW (iset : InstrSet) (p w : Bool) : Word :=
  classMatch iset ||| (bif p then BitVec.twoPow 32 24 else 0#32) ||| (bif w then BitVec.twoPow 32 21 else 0#32)

/-- The match of a row that fixes U as well. -/
def matchPUW (iset : InstrSet) (p u w : Bool) : Word :=
  matchPW iset p w ||| (bif u then BitVec.twoPow 32 23 else 0#32)

theorem and_maskPW_iff (iset : InstrSet) (x : Word) (p w : Bool) :
    x &&& maskPW iset = matchPW iset p w ↔ x &&& classMask iset = classMatch iset ∧ wordP x = p ∧ wordW x = w := by
  rw [maskPW, matchPW, and_or_bit_eq_iff (by decide) (by cases iset <;> rfl) (by cases iset <;> cases p <;> rfl),
    and_or_bit_eq_iff (by decide) (by cases iset <;> rfl) (by cases iset <;> rfl), and_assoc]
  rfl

theorem and_maskPUW_iff (iset : InstrSet) (x : Word) (p u w : Bool) :
    x &&& maskPUW iset = matchPUW iset p u w ↔
      x &&& classMask iset = classMatch iset ∧ wordP x = p ∧ wordW x = w ∧ wordU x = u := by
  rw [maskPUW, matchPUW, and_or_bit_eq_iff (by decide) (by cases iset <;> rfl)
    (by cases iset <;> cases p <;> cases w <;> rfl), and_maskPW_iff, and_assoc, and_assoc]
  rfl

/-- The mask and match of an instruction's row: those of its class, with P and W, and with U where both are 0. -/
theorem and_mask_iff (i : Instr) (x : Word) :
    x &&& mask i = pattern i ↔
      x &&& classMask i.iset = classMatch i.iset ∧ wordP x = (fieldsOf i).p ∧ wordW x = (fieldsOf i).w ∧
        ((fieldsOf i).p = false → (fieldsOf i).w = false → wordU x = (fieldsOf i).u) := by
  cases i with
  | stcA1Off => exact (and_maskPW_iff .a32 x true false).trans (by simp [fieldsOf, Instr.iset])
  | stcA1Post => exact (and_maskPW_iff .a32 x false true).trans (by simp [fieldsOf, Instr.iset])
  | stcA1Pre => exact (and_maskPW_iff .a32 x true true).trans (by simp [fieldsOf, Instr.iset])
  | stcA1Unind => exact (and_maskPUW_iff .a32 x false true false).trans (by simp [fieldsOf, Instr.iset])
  | stcA1Undefined => exact (and_maskPUW_iff .a32 x false false false).trans (by simp [fieldsOf, Instr.iset])
  | stcT1Off => exact (and_maskPW_iff .t32 x true false).trans (by simp [fieldsOf, Instr.iset])
  | stcT1Post => exact (and_maskPW_iff .t32 x false true).trans (by simp [fieldsOf, Instr.iset])
  | stcT1Pre => exact (and_maskPW_iff .t32 x true true).trans (by simp [fieldsOf, Instr.iset])
  | stcT1Unind => exact (and_maskPUW_iff .t32 x false true false).trans (by simp [fieldsOf, Instr.iset])
  | stcT1Undefined => exact (and_maskPUW_iff .t32 x false false false).trans (by simp [fieldsOf, Instr.iset])

/-- The letters of a row stand at their bits of a word (R83): cond, Rn, imm8 and, but where P and W are 0, U. -/
def LettersAt (i : Instr) (x : Word) : Prop :=
  fieldsOf i =
    ⟨(wordFields i.iset x).cond, (fieldsOf i).p, bif (fieldsOf i).p || (fieldsOf i).w then wordU x else (fieldsOf i).u,
      (fieldsOf i).w, wordRn x, wordImm8 x⟩

/-- A word decodes to an instruction whose letters stand in it exactly when it has the mask and match of the row and, in
A1, a cond other than 1111 (R86). -/
theorem decodeWord_eq_some_iff_row {i : Instr} {x : Word} (hletters : LettersAt i x) :
    decodeWord i.iset x = some i ↔ x &&& mask i = pattern i ∧ (i.iset = .a32 → wordCond x ≠ 0b1111#4) := by
  rw [decodeWord_eq_some_iff, and_mask_iff, InClass]
  constructor
  · rintro ⟨⟨hclass, hnv⟩, -, hfields⟩
    rw [hfields]
    exact ⟨⟨hclass, rfl, rfl, fun _ _ => rfl⟩, hnv⟩
  · rintro ⟨⟨hclass, hp, hw, hu⟩, hnv⟩
    refine ⟨⟨hclass, hnv⟩, rfl, ?_⟩
    rw [hletters, wordFields, hp, hw]
    cases hpi : (fieldsOf i).p <;> cases hwi : (fieldsOf i).w
    · rw [hu hpi hwi]
      rfl
    all_goals rfl

theorem decodeA1_eq_some_iff_row {i : Instr} {x : Word} (hset : i.iset = .a32) (h : LettersAt i x) :
    decodeWord .a32 x = some i ↔ x &&& mask i = pattern i ∧ wordCond x ≠ 0b1111#4 := by
  simpa [hset] using decodeWord_eq_some_iff_row h

theorem decodeT1_eq_some_iff_row {i : Instr} {x : Word} (hset : i.iset = .t32) (h : LettersAt i x) :
    decodeWord .t32 x = some i ↔ x &&& mask i = pattern i := by
  simpa [hset] using decodeWord_eq_some_iff_row h

/-- P, W and, where both are 0, U tell the five rows of a class apart (R84). -/
theorem class_iff_rows (iset : InstrSet) (x : Word) :
    x &&& classMask iset = classMatch iset ↔
      x &&& maskPW iset = matchPW iset true false ∨ x &&& maskPW iset = matchPW iset false true ∨
      x &&& maskPW iset = matchPW iset true true ∨ x &&& maskPUW iset = matchPUW iset false true false ∨
      x &&& maskPUW iset = matchPUW iset false false false := by
  simp only [and_maskPW_iff, and_maskPUW_iff]
  cases wordP x <;> cases wordU x <;> cases wordW x <;> simp

/-- Settles O4: the ten rows by the letters that stand in the word, what lies outside a class, a class as its rows. -/
theorem rowsByMaskAndMatch : Obligations.RowsByMaskAndMatch := by
  intro x c u n m notNv
  exact ⟨decodeA1_eq_some_iff_row rfl rfl, decodeA1_eq_some_iff_row rfl rfl, decodeA1_eq_some_iff_row rfl rfl,
    decodeA1_eq_some_iff_row rfl rfl, decodeA1_eq_some_iff_row rfl rfl, decodeT1_eq_some_iff_row rfl rfl,
    decodeT1_eq_some_iff_row rfl rfl, decodeT1_eq_some_iff_row rfl rfl, decodeT1_eq_some_iff_row rfl rfl,
    decodeT1_eq_some_iff_row rfl rfl, (decodeWord_eq_none_iff .a32 x).trans (not_congr (inClass_a32_iff x)),
    (decodeWord_eq_none_iff .t32 x).trans (not_congr (inClass_t32_iff x)), class_iff_rows .a32 x, class_iff_rows .t32 x⟩

end Sys2Proof
end

section
/-! PROOFS. Bytes and halfwords (30_encoding.md R80, R88): the length of a T32 instruction from its first halfword, and
the four bytes of every encoding. -/

namespace Sys2Proof

/-! ### The first halfword -/

/-- Bits 15:11 of a halfword as a number. -/
theorem halfword_top_toNat (h : Halfword) : (h.extractLsb' 11 5).toNat = h.toNat / 2048 := by
  have hlt := h.isLt
  rw [BitVec.extractLsb'_toNat, Nat.shiftRight_eq_div_pow]
  omega

theorem firstOf32_iff (h : Halfword) :
    firstOf32 h = true ↔ h.toNat / 2048 = 29 ∨ h.toNat / 2048 = 30 ∨ h.toNat / 2048 = 31 := by
  simp only [firstOf32, Bool.or_eq_true, beq_iff_eq, ← BitVec.toNat_inj, halfword_top_toNat, or_assoc]
  rfl

/-- `BitVec.getElem_append` for a byte below, in the form that also meets a width written as a number. -/
theorem getElem_append_byte {n : Nat} (x : BitVec n) (b : Byte) {i : Nat} (hi : i < n + 8) :
    (x ++ b)[i] = if h : i < 8 then b[i] else x[i - 8] :=
  BitVec.getElem_append hi

theorem joinHalfword_eq_append (b0 b1 : Byte) : joinHalfword b0 b1 = b1 ++ b0 := by
  apply BitVec.eq_of_getLsbD_eq
  intro i hi
  interval_cases i <;> simp [joinHalfword, getElem_append_byte]

/-- The two bytes of bits 31:16 of a word, joined. -/
theorem joinHalfword_extract (w : Word) :
    joinHalfword (w.extractLsb' 16 8) (w.extractLsb' 24 8) = w.extractLsb' 16 16 := by
  apply BitVec.eq_of_getLsbD_eq
  intro i hi
  interval_cases i <;> simp [joinHalfword]

/-- The word of a T1 instruction has the constant bits of its class (R82). -/
theorem encode_and_maskT1 {i : Instr} (hset : i.iset = .t32) : encode i &&& 0xFE50FF00#32 = 0xEC005E00#32 := by
  cases i with
  | stcT1Off | stcT1Post | stcT1Pre | stcT1Unind | stcT1Undefined => exact packWord_and_maskT1 ..
  | stcA1Off | stcA1Post | stcA1Pre | stcA1Unind | stcA1Undefined => cases hset

/-- A T32 instruction whose first halfword announces no 32-bit one is no STC, whatever follows. -/
theorem decodeBytes_of_not_firstOf32 {b0 b1 : Byte} (h : firstOf32 (joinHalfword b0 b1) = false) (rest : List Byte) :
    decodeBytes .t32 (b0 :: b1 :: rest) = .error .notSTC := by
  simp [decodeBytes, h]

/-- Settles O8: bits 15:11 by number, the constant bits of class T1, and the two stops of the byte decoder. -/
theorem t32LengthByFirstHalfword : Obligations.T32LengthByFirstHalfword := by
  refine ⟨firstOf32_iff, fun i hset => ?_, fun b0 b1 rest h => decodeBytes_of_not_firstOf32 h rest, fun b0 b1 h => ?_⟩
  · rw [← joinHalfword_extract]
    exact firstOf32_of_maskT1 _ (encode_and_maskT1 hset)
  · simp [decodeBytes, h]

/-! ### The four bytes -/

/-- Bytes that decode begin with the four bytes of a word that decodes. -/
theorem exists_four_of_decodeBytes_eq_ok {iset : InstrSet} {bytes rest : List Byte} {i : Instr}
    (h : decodeBytes iset bytes = .ok (i, rest)) :
    ∃ b0 b1 b2 b3, bytes = [b0, b1, b2, b3] ++ rest ∧
      decodeWord iset (if iset = .a32 then joinBytes b0 b1 b2 b3 else joinBytes b2 b3 b0 b1) = some i := by
  match bytes with
  | [] | [_] => cases iset <;> cases h
  | [b0, b1] | [b0, b1, _] =>
    cases iset with
    | a32 => cases h
    | t32 => cases hfirst : firstOf32 (joinHalfword b0 b1) <;> simp [decodeBytes, hfirst] at h
  | b0 :: b1 :: b2 :: b3 :: more =>
    rw [decodeBytes_four] at h
    cases hword : decodeWord iset (if iset = .a32 then joinBytes b0 b1 b2 b3 else joinBytes b2 b3 b0 b1) with
    | none => simp [hword] at h
    | some j =>
      simp only [hword, Option.elim_some, Except.ok.injEq, Prod.mk.injEq] at h
      obtain ⟨rfl, rfl⟩ := h
      exact ⟨b0, b1, b2, b3, rfl, hword⟩

theorem joinBytes_eq_append (b0 b1 b2 b3 : Byte) : joinBytes b0 b1 b2 b3 = b3 ++ b2 ++ b1 ++ b0 := by
  apply BitVec.eq_of_getLsbD_eq
  intro i hi
  interval_cases i <;> simp [joinBytes, getElem_append_byte]

theorem joinBytes_high (b0 b1 b2 b3 : Byte) : (joinBytes b0 b1 b2 b3).extractLsb' 16 16 = b3 ++ b2 := by
  rw [← joinHalfword_extract, extract_joinBytes_third, extract_joinBytes_fourth, joinHalfword_eq_append]

theorem joinBytes_low (b0 b1 b2 b3 : Byte) : (joinBytes b0 b1 b2 b3).extractLsb' 0 16 = b1 ++ b0 := by
  apply BitVec.eq_of_getLsbD_eq
  intro i hi
  interval_cases i <;> simp [joinBytes, getElem_append_byte]

/-- Settles O54: the instruction is encoded in the word the four bytes form. -/
theorem everyEncodingIsFourBytes : Obligations.EveryEncodingIsFourBytes := by
  intro iset bytes rest i h
  obtain ⟨b0, b1, b2, b3, hbytes, hword⟩ := exists_four_of_decodeBytes_eq_ok h
  obtain ⟨hencode, -, -⟩ := encodeOfDecodedWord iset _ i hword
  refine ⟨b0, b1, b2, b3, hbytes, ?_, ?_⟩ <;> rintro rfl
  · exact .inl (by rw [hencode, if_pos rfl, joinBytes_eq_append])
  · rw [hencode, if_neg nofun, joinBytes_high, joinBytes_low]
    exact ⟨.inl rfl, .inl rfl⟩

end Sys2Proof
end

section
/-! PROOFS. The operands of STC (30_encoding.md R85, R95 to R104): the immediate, and the assembler's way there and
back. -/

namespace Sys2Proof.Safety

open Sys2Proof.Machine

/-! ### The immediate -/

theorem imm32_toNat (imm8 : Byte) : (imm32 imm8).toNat = 4 * imm8.toNat := by
  rw [imm32_eq, BitVec.toNat_ofNat]
  omega

theorem asmImm8_eq_some_iff (n : Nat) (b : Byte) :
    asmImm8 n = some b ↔ n % 4 = 0 ∧ n ≤ 1020 ∧ b.toNat = n / 4 := by
  unfold asmImm8
  split
  · next h =>
    rw [Option.some_inj, ← BitVec.toNat_inj, BitVec.toNat_ofNat]
    omega
  · next h => simpa using fun h4 hmax => absurd ⟨h4, hmax⟩ h

/-- The immediate the disassembler prints is the one the assembler takes. -/
@[simp] theorem asmImm8_four_mul (b : Byte) : asmImm8 (4 * b.toNat) = some b := by
  rw [asmImm8_eq_some_iff]
  omega

@[simp] theorem asmOption_toNat (b : Byte) : asmOption b.toNat = some b := by
  rw [asmOption, if_pos (by omega), BitVec.ofNat_toNat, BitVec.setWidth_eq]

/-- Settles O9: the immediate, the assembler's operand, the fields of a decoded word and the Unindexed address. -/
theorem immediateIsImm8TimesFour : Obligations.ImmediateIsImm8TimesFour := by
  refine ⟨fun imm8 => ⟨imm32_toNat imm8, ?_⟩, asmImm8_eq_some_iff, fun c rn => ⟨rfl, rfl⟩, fun iset w i s h => ?_,
    fun c rn option s => ⟨rfl, rfl⟩⟩
  · rw [imm32_toNat]
    omega
  · obtain ⟨-, hu, -, hrn, himm8, -⟩ := fieldsOfDecodedWord iset w i h
    exact ⟨hrn, fun hadd => by rw [offsetAddr, hu, hadd, himm8, if_pos rfl],
      fun hsub => by rw [offsetAddr, hu, hsub, himm8, if_neg Bool.false_ne_true]⟩

/-! ### The assembler -/

/-- The condition a printed suffix stands for. -/
theorem asmCond_asmSuffix {c : Cond} (h : c ≠ .nv) : asmCond (asmSuffix c) = some c := by
  cases c with
  | nv => exact absurd rfl h
  | _ => rfl

theorem ne_nv_of_asmCond {suffix : Option Cond} {c : Cond} (h : asmCond suffix = some c) : c ≠ .nv := by
  rintro rfl
  unfold asmCond at h
  split at h <;> simp_all

/-- The address form of an A1 instruction assembles to it. -/
theorem assembleA1_asmAddress {i : Instr} {a : AsmAddress} (hset : i.iset = .a32) (h : asmAddress i = some a) :
    assembleA1 (fieldsOf i).cond a = some i := by
  cases i with
  | stcA1Off | stcA1Post | stcA1Pre | stcA1Unind =>
    obtain rfl := Option.some.inj h
    simp [assembleA1, fieldsOf]
  | stcA1Undefined => cases h
  | stcT1Off | stcT1Post | stcT1Pre | stcT1Unind | stcT1Undefined => cases hset

/-- The address form of a T1 instruction assembles to it. -/
theorem assembleT1_asmAddress {i : Instr} {a : AsmAddress} (hset : i.iset = .t32) (h : asmAddress i = some a) :
    assembleT1 a = some i := by
  cases i with
  | stcT1Off | stcT1Post | stcT1Pre | stcT1Unind =>
    obtain rfl := Option.some.inj h
    simp [assembleT1]
  | stcT1Undefined => cases h
  | stcA1Off | stcA1Post | stcA1Pre | stcA1Unind | stcA1Undefined => cases hset

/-- What the assembler makes of a line (R99, R104). -/
theorem assemble_eq_some_iff (iset : InstrSet) (itCond : Cond) (l : AsmLine) (i : Instr) :
    assemble iset itCond l = some i ↔ l.qualifier ≠ some .narrow ∧ ∃ c, asmCond l.suffix = some c ∧
      (iset = .a32 → assembleA1 c l.address = some i) ∧
      (iset = .t32 → c = itCond ∧ assembleT1 l.address = some i) := by
  unfold assemble
  split <;> simp_all

/-- Settles O10: the printed suffix gives the condition back, and the address form the instruction. -/
theorem assembleOfDisassembledInstruction : Obligations.AssembleOfDisassembledInstruction := by
  intro i itCond l hwf hit h
  obtain ⟨a, ha, hl⟩ := Option.map_eq_some_iff.1 h
  rw [wf_eq_cond_ne_nv, bne_iff_ne] at hwf
  rw [assemble_eq_some_iff]
  cases hset : i.iset with
  | a32 =>
    rw [hset] at hl
    subst hl
    exact ⟨nofun, _, asmCond_asmSuffix hwf, fun _ => assembleA1_asmAddress hset ha, nofun⟩
  | t32 =>
    rw [hset] at hl
    subst hl
    exact ⟨nofun, _, asmCond_asmSuffix hit, nofun, fun _ => ⟨rfl, assembleT1_asmAddress hset ha⟩⟩

/-- What an address form assembles to in A1: an STC encoding of that class with the line's condition. -/
theorem assembleA1_eq_some {c : Cond} {a : AsmAddress} {i : Instr} (h : assembleA1 c a = some i) :
    i.iset = .a32 ∧ isStc i = true ∧ (fieldsOf i).cond = c := by
  unfold assembleA1 at h
  split at h
  · obtain rfl := Option.some.inj h
    exact ⟨rfl, rfl, rfl⟩
  all_goals
    obtain ⟨b, -, rfl⟩ := Option.map_eq_some_iff.1 h
    exact ⟨rfl, rfl, rfl⟩

/-- What an address form assembles to in T1: an STC encoding of that class. -/
theorem assembleT1_eq_some {a : AsmAddress} {i : Instr} (h : assembleT1 a = some i) :
    i.iset = .t32 ∧ isStc i = true ∧ (fieldsOf i).cond = .al := by
  unfold assembleT1 at h
  split at h
  · obtain rfl := Option.some.inj h
    exact ⟨rfl, rfl, rfl⟩
  all_goals
    obtain ⟨b, -, rfl⟩ := Option.map_eq_some_iff.1 h
    exact ⟨rfl, rfl, rfl⟩

/-- Settles O11: what a line assembles to, class by class. -/
theorem assembledInstructionIsStc : Obligations.AssembledInstructionIsStc := by
  intro iset itCond l i h
  obtain ⟨hwide, c, hc, ha1, ht1⟩ := (assemble_eq_some_iff iset itCond l i).1 h
  rw [wf_eq_cond_ne_nv, bne_iff_ne]
  cases iset with
  | a32 =>
    obtain ⟨hset, hstc, rfl⟩ := assembleA1_eq_some (ha1 rfl)
    exact ⟨ne_nv_of_asmCond hc, hset, hstc, hwide, nofun, fun _ => hc⟩
  | t32 =>
    obtain ⟨rfl, haddress⟩ := ht1 rfl
    obtain ⟨hset, hstc, hal⟩ := assembleT1_eq_some haddress
    exact ⟨by simp [hal], hset, hstc, hwide, fun _ => hc, nofun⟩

end Sys2Proof.Safety
end

section
/-! PROOFS. The base register of an STC (40_stc.md R120, R141, R142), the address it stores to (R121), and the eight
encodings where nothing stands in their way (R125 to R132). -/

namespace Sys2Proof.Safety

open Sys2Proof.Machine

section
variable {i : Instr} {f : Fields} {s : State} {addr : Word}

theorem isUnpredictable_iff : isUnpredictable f s = true ↔ f.rn = 15 ∧ (f.w = true ∨ s.iset = .t32) := by
  cases hiset : s.iset <;> simp [isUnpredictable, hiset]

theorem not_isUnpredictable_of_ne (h : f.rn ≠ 15) : isUnpredictable f s = false :=
  Bool.eq_false_iff.2 fun hun => h (isUnpredictable_iff.1 hun).1

/-- In A32 every base register can be used without writeback (40_stc.md R138). -/
theorem not_isUnpredictable_of_a32 (hw : f.w = false) (hiset : s.iset = .a32) : isUnpredictable f s = false := by
  simp [isUnpredictable, hw, hiset]

theorem targetAddr_of_p (h : (fieldsOf i).p = true) :
    targetAddr i s = displaced (readReg s (fieldsOf i).rn) (fieldsOf i).u (fieldsOf i).imm8 := by
  rw [targetAddr, storeAddr, if_pos h, offsetAddr_eq]

theorem targetAddr_of_not_p (h : (fieldsOf i).p = false) : targetAddr i s = readReg s (fieldsOf i).rn := by
  rw [targetAddr, storeAddr, if_neg (by simp [h])]

/-- An admitted STC without writeback, or with its writeback suppressed, stores and writes no register. -/
theorem exec_stores (hexec : Executes i s) (haddr : targetAddr i s = addr) (hok : StoreOk s addr)
    (hw : (fieldsOf i).w = false ∨ isUnpredictable (fieldsOf i) s = true) :
    ∃ t, exec i s = .next t ∧ StcEffect s t addr ∧ t.x = s.x := by
  subst haddr
  have hwback : ((fieldsOf i).w && !isUnpredictable (fieldsOf i) s) = false := by
    rcases hw with h | h <;> simp [h]
  obtain ⟨t, ht, heffect, hx, -⟩ := stcAccess_completes (fieldsOf i) (encode i) false s hok
  exact ⟨t, by rw [exec_of_executes hexec, hwback, ht], heffect, hx rfl⟩

/-- An admitted STC with writeback and a base register below 15 stores and writes the displaced base back. -/
theorem exec_stores_and_writes_back (hexec : Executes i s) (haddr : targetAddr i s = addr) (hok : StoreOk s addr)
    (hw : (fieldsOf i).w = true) (hbase : (fieldsOf i).rn ≠ 15) :
    ∃ t, exec i s = .next t ∧ StcEffect s t addr ∧
      WroteReg s t (fieldsOf i).rn (displaced (readReg s (fieldsOf i).rn) (fieldsOf i).u (fieldsOf i).imm8) := by
  subst haddr
  have hwback : ((fieldsOf i).w && !isUnpredictable (fieldsOf i) s) = true := by
    simp [hw, not_isUnpredictable_of_ne hbase]
  obtain ⟨t, ht, heffect, -, hwrote⟩ := stcAccess_completes (fieldsOf i) (encode i) true s hok
  exact ⟨t, by rw [exec_of_executes hexec, hwback, ht], heffect, offsetAddr_eq (fieldsOf i) s ▸ hwrote rfl⟩

theorem executes_of_ne (hstc : isStc i = true) (hpass : conditionPassed (fieldsOf i).cond s = true)
    (hbase : (fieldsOf i).rn ≠ 15) : Executes i s :=
  ⟨hstc, hpass, .inl (not_isUnpredictable_of_ne hbase)⟩

theorem executes_of_a32 (hstc : isStc i = true) (hpass : conditionPassed (fieldsOf i).cond s = true)
    (hw : (fieldsOf i).w = false) (hiset : s.iset = .a32) : Executes i s :=
  ⟨hstc, hpass, .inl (not_isUnpredictable_of_a32 hw hiset)⟩

end

/-- Settles O15: the row P = 1, W = 0 of A1. -/
theorem stcA1OffStores : Obligations.StcA1OffStores := by
  intro cond u rn imm8 s hiset hpass hok
  exact exec_stores (executes_of_a32 rfl hpass rfl hiset) (targetAddr_of_p rfl) hok (.inl rfl)

/-- Settles O16: the row P = 0, W = 1 of A1. -/
theorem stcA1PostStoresAndWritesBack : Obligations.StcA1PostStoresAndWritesBack := by
  intro cond u rn imm8 s _ hbase hpass hok
  exact exec_stores_and_writes_back (i := .stcA1Post cond u rn imm8) (executes_of_ne rfl hpass hbase)
    (targetAddr_of_not_p rfl) hok rfl hbase

/-- Settles O17: the row P = W = 1 of A1. -/
theorem stcA1PreStoresAndWritesBack : Obligations.StcA1PreStoresAndWritesBack := by
  intro cond u rn imm8 s _ hbase hpass hok
  exact exec_stores_and_writes_back (i := .stcA1Pre cond u rn imm8) (executes_of_ne rfl hpass hbase)
    (targetAddr_of_p rfl) hok rfl hbase

/-- Settles O18: the row P = W = 0, U = 1 of A1. -/
theorem stcA1UnindStores : Obligations.StcA1UnindStores := by
  intro cond rn option s hiset hpass hok
  exact exec_stores (executes_of_a32 rfl hpass rfl hiset) (targetAddr_of_not_p rfl) hok (.inl rfl)

/-- Settles O19: the row P = 1, W = 0 of T1. -/
theorem stcT1OffStores : Obligations.StcT1OffStores := by
  intro u rn imm8 s _ hbase hpass hok
  exact exec_stores (executes_of_ne rfl hpass hbase) (targetAddr_of_p rfl) hok (.inl rfl)

/-- Settles O20: the row P = 0, W = 1 of T1. -/
theorem stcT1PostStoresAndWritesBack : Obligations.StcT1PostStoresAndWritesBack := by
  intro u rn imm8 s _ hbase hpass hok
  exact exec_stores_and_writes_back (i := .stcT1Post u rn imm8) (executes_of_ne rfl hpass hbase)
    (targetAddr_of_not_p rfl) hok rfl hbase

/-- Settles O21: the row P = W = 1 of T1. -/
theorem stcT1PreStoresAndWritesBack : Obligations.StcT1PreStoresAndWritesBack := by
  intro u rn imm8 s _ hbase hpass hok
  exact exec_stores_and_writes_back (i := .stcT1Pre u rn imm8) (executes_of_ne rfl hpass hbase)
    (targetAddr_of_p rfl) hok rfl hbase

/-- Settles O22: the row P = W = 0, U = 1 of T1. -/
theorem stcT1UnindStores : Obligations.StcT1UnindStores := by
  intro rn option s _ hbase hpass hok
  exact exec_stores (executes_of_ne rfl hpass hbase) (targetAddr_of_not_p rfl) hok (.inl rfl)

/-- Settles O29: register 15 reads `pc + 8`, and `wbsuppress` takes the writeback away. -/
theorem pcBaseWritebackSuppressed : Obligations.PcBaseWritebackSuppressed := by
  intro cond u imm8 s hiset hpass hsuppress
  refine ⟨fun hok => ?_, fun hok => ?_⟩
  · exact exec_stores (i := .stcA1Post cond u 15 imm8) ⟨rfl, hpass, .inr ⟨hsuppress, hiset⟩⟩
      (targetAddr_of_not_p rfl) hok (.inr (isUnpredictable_iff.2 ⟨rfl, .inl rfl⟩))
  · exact exec_stores (i := .stcA1Pre cond u 15 imm8) ⟨rfl, hpass, .inr ⟨hsuppress, hiset⟩⟩
      (targetAddr_of_p rfl) hok (.inr (isUnpredictable_iff.2 ⟨rfl, .inl rfl⟩))

end Sys2Proof.Safety
end

section
/-! PROOFS. What an STC does where it stores nothing: the condition failed (40_stc.md R135), the UNDEFINED patterns
(R133, R134), base register 15 (R141, R142), the permission (R143), the trap to Hyp mode (R144), and the refusals. -/

namespace Sys2Proof.Safety

open Sys2Proof.Machine

section
variable {i : Instr} {s : State}

/-- A failed condition where only the skip is permitted (40_stc.md R135). -/
theorem exec_skips (hfail : conditionPassed (fieldsOf i).cond s = false)
    (hskip : stcPeculiar (fieldsOf i) s = false ∨ s.params.condFailPolicy = .nop) (hpc : s.pc.toNat + 4 < 2 ^ 32) :
    ∃ t, exec i s = .next t ∧ SkipEffect s t ∧ t.draws = s.draws := by
  rw [exec_of_failed hfail, stcFailed_eq_advance hskip]
  exact advance_completes s hpc

theorem exec_of_undefined (hpass : conditionPassed (fieldsOf i).cond s = true) (hstc : isStc i = false) :
    exec i s = .fault (.undefinedInstruction (encode i) s.pc) := by
  rw [exec_of_passed hpass, stcPassed, isUndefined_fieldsOf, hstc, if_pos (by simp), raise]

theorem exec_of_unpredictable (hstc : isStc i = true) (hpass : conditionPassed (fieldsOf i).cond s = true)
    (hun : isUnpredictable (fieldsOf i) s = true) : exec i s = stcUnpredictable (fieldsOf i) (encode i) s := by
  rw [exec_of_passed hpass, stcPassed, isUndefined_fieldsOf, hstc, if_neg (by simp), if_pos hun]

theorem stcAccess_of_not_permitted {f : Fields} {instr : Word} {wback : Bool} (h : sysRegPermitted s = false) :
    stcAccess f instr wback s = .fault (.undefinedInstruction instr s.pc) := by
  rw [stcAccess, if_pos (by simp [h]), raise]

theorem stcAccess_of_trapped {f : Fields} {instr : Word} {wback : Bool} (h : hypTrapped s = true) :
    stcAccess f instr wback s = .fault (.hypTrap instr s.pc) := by
  obtain ⟨-, -, -, hperm, -⟩ := (hypTrapped_iff s).1 h
  rw [stcAccess, if_neg (by simp [hperm]), if_pos h, raise]

/-- An instruction that raises HypTrap is trapped, and the trap records its word and `pc`. -/
theorem exec_eq_hypTrap {w pc : Word} (h : exec i s = .fault (.hypTrap w pc)) :
    w = encode i ∧ pc = s.pc ∧ hypTrapped s = true := by
  obtain ⟨d, hpassed⟩ := exec_eq_fault h
  rcases stcPassed_eq_fault hpassed with hundef | ⟨-, ⟨htrap, htrapped⟩ | ⟨kind, habort⟩⟩
  · simp at hundef
  · obtain ⟨hw, hpc⟩ := Fault.hypTrap.inj htrap
    exact ⟨hw, hpc, htrapped⟩
  · simp at habort

end

/-- Settles O24: none of the four peculiarities of R135 is there, so the failed condition skips. -/
theorem failedConditionSkips : Obligations.FailedConditionSkips := by
  intro i s hstc hfail hbase hperm htrap hpc
  have hplain : stcPeculiar (fieldsOf i) s = false := by
    simp [stcPeculiar, isUndefined_fieldsOf, hstc, hbase, hperm, htrap]
  exact exec_skips hfail (.inl hplain) hpc

/-- Settles O25: under `nop` the failed condition skips, peculiar or not. -/
theorem failedConditionSkipsUnderNop : Obligations.FailedConditionSkipsUnderNop := by
  intro i s hfail hnop hpc
  exact exec_skips hfail (.inr hnop) hpc

/-- Settles O26: the free choice takes one of the two outcomes of `stcFailed_either`. -/
theorem failedConditionUnderEither : Obligations.FailedConditionUnderEither := by
  intro i s hfail hpeculiar heither hpc
  rw [exec_of_failed hfail]
  refine (stcFailed_either hpeculiar heither).imp_left fun hadvance => ?_
  obtain ⟨t, ht, hskip, -⟩ := advance_completes (s.withDraws (s.draws + 1)) hpc
  exact ⟨t, hadvance.trans ht, hskip⟩

/-- Settles O27: the statement UNDEFINED comes before every other check of R120. -/
theorem undefinedPatternFaults : Obligations.UndefinedPatternFaults :=
  ⟨fun _ _ _ _ hpass => exec_of_undefined hpass rfl, fun _ _ _ hpass => exec_of_undefined hpass rfl⟩

/-- Settles O28: with base register 15 unpredictable, the instruction is what `CU_STC_PC` makes of it. -/
theorem pcBaseByParameter : Obligations.PcBaseByParameter := by
  intro i s hstc hpass h15 hw
  rw [exec_of_unpredictable hstc hpass (isUnpredictable_iff.2 ⟨h15, hw⟩), stcUnpredictable]
  refine ⟨fun hundef => ?_, fun hnop hpc => ?_, fun hrefuse => ?_, fun hsuppress ht32 => ?_⟩
  · rw [hundef, raise]
  · obtain ⟨t, ht, hskip, -⟩ := advance_completes s hpc
    exact ⟨t, by rw [hnop, ht], hskip⟩
  · cases hiset : s.iset <;> rcases hrefuse with hset | hset <;> simp [hset]
  · rw [hsuppress, ht32]

/-- Settles O30: the permission is the first check of the access. -/
theorem notPermittedIsUndefined : Obligations.NotPermittedIsUndefined := by
  intro i s hexec hperm
  rw [exec_of_executes hexec, stcAccess_of_not_permitted hperm]

/-- Settles O31: the access is trapped where `hypTrapped` says, and no other part of an instruction raises HypTrap. -/
theorem hypTrapExactly : Obligations.HypTrapExactly := by
  refine ⟨fun i s hexec => ?_, fun i s w pc h => ?_⟩
  · rw [← hypTrapped_iff]
    refine ⟨fun h => (exec_eq_hypTrap h).2.2, fun h => ?_⟩
    rw [exec_of_executes hexec, stcAccess_of_trapped h]
  · rw [← hypTrapped_iff]
    exact exec_eq_hypTrap h

/-- Settles O35: the refusals of the condition passed, and `pcWrap` of the condition failed. -/
theorem refusalsOfAnInstruction : Obligations.RefusalsOfAnInstruction := by
  intro i s r h
  rcases exec_eq_refused h with hwrap | ⟨d, hpassed⟩
  · exact .inr (.inr hwrap)
  · refine (stcPassed_eq_refused hpassed).imp_left fun ⟨hundef, hun, hr⟩ => ?_
    rw [isUndefined_fieldsOf] at hundef
    exact ⟨hr, by simpa using hundef, isUnpredictable_iff.1 hun⟩

end Sys2Proof.Safety
end

section
/-! PROOFS. The step of a PE that stands at an instruction (40_stc.md R145, 20_memory.md R59). -/

namespace Sys2Proof.Safety

open Sys2Proof.Machine

/-- The PE's turn with an instruction to execute. -/
theorem step_of_fetch_ok {s : State} {i : Instr} (hhalted : halted s = none) (hturn : nextTurn s = .pe)
    (hfetch : fetch s = .ok i) : step s = exec i (takeTurn s) := by
  simp [step, hhalted, hturn, hfetch]

/-- Settles O42: the bytes at `pc` decode to the instruction they encode, so the PE fetches it. -/
theorem stepRunsTheInstructionAtPc : Obligations.StepRunsTheInstructionAtPc := by
  intro s i hready hwf hiset hbytes
  obtain ⟨hf, hr, hpc, hturn, ha, hl⟩ := hready
  have hdecode : decodeBytes s.iset (programBytes s s.pc.toNat 4) = .ok (i, []) := by
    rw [hbytes, ← hiset, ← List.append_nil (wordToBytes _ _)]
    exact decodeBytesOfEncodedInstruction i [] hwf
  have hfetch : fetch s = .ok i := by
    simp [fetch, pcMisaligned_eq_false.2 ha, hl, hdecode]
  exact step_of_fetch_ok (halted_eq_none.2 ⟨hf, hr, hpc⟩) hturn hfetch

end Sys2Proof.Safety
end

section
/-! PROOFS. Two states in which an STC ends alike: they differ in the flags (40_stc.md R136), or in the instruction set
state (40_stc.md section 4). What the transfer leaves is written out field by field, so that it commutes with both. -/

namespace Sys2Proof.Safety

open Sys2Proof.Machine

/-- The environment's predicates (00_scope.md R6) answer alike in two states. -/
structure EnvAlike (s s' : State) : Prop where
  permitted : sysRegPermitted s' = sysRegPermitted s
  debug : hypTrapDebug s' = hypTrapDebug s
  aborts : ∀ a : Word, memAborts s' a 4 = memAborts s a 4

/-- The state with other flags. -/
def withFlags (n z c v : Bool) (s : State) : State :=
  { s with flagN := n, flagZ := z, flagC := c, flagV := v }

/-- The state in another instruction set. -/
def withIset (k : InstrSet) (s : State) : State :=
  { s with iset := k }

/-! ### The transfer, field by field -/

theorem readDtrrx_snd (s : State) :
    (readDtrrx s).2 = { s with rxfull := rxfullAfter s, draws := drawsAfter s } := by
  unfold readDtrrx rxfullAfter drawsAfter
  cases s.params.dccModel with
  | plain => rfl
  | rxfull =>
    cases s with | mk x pc iset n z c v it dit dtrrx rxfull =>
    cases rxfull <;> rfl

/-- The register file with `x[n]` written; register 15 is not in it (log 14). -/
def writtenX (x : Vector Word 15) (n : RegNum) (v : Word) : Vector Word 15 :=
  if h : n.val < 15 then x.set n.val v else x

theorem writeReg_eq (s : State) (n : RegNum) (v : Word) : writeReg s n v = s.withX (writtenX s.x n v) := by
  unfold writeReg writtenX
  split <;> rfl

/-- A transfer changes the register file, RXfull, memory and the count of free values. -/
theorem transferred_eq (f : Fields) (wback : Bool) (s : State) :
    transferred f wback s =
      { s with
        x := if wback then writtenX s.x f.rn (offsetAddr f s) else s.x
        rxfull := rxfullAfter s
        mem := s.mem.writeBytes (storeAddr f s).toNat (wordBytes s.params.bigEndData (datum s))
        draws := drawsAfter s } := by
  rw [transferred, readDtrrx_snd, readDtrrx_fst, writeReg_eq]
  cases wback <;> rfl

theorem transferred_withFlags (f : Fields) (wback : Bool) (n z c v : Bool) (s : State) :
    transferred f wback (withFlags n z c v s) = withFlags n z c v (transferred f wback s) := by
  rw [transferred_eq, transferred_eq]
  rfl

theorem transferred_withIset (f : Fields) (wback : Bool) (k : InstrSet) (s : State) :
    transferred f wback (withIset k s) = withIset k (transferred f wback s) := by
  rw [transferred_eq, transferred_eq]
  rfl

@[simp] theorem transferred_iset (f : Fields) (wback : Bool) (s : State) : (transferred f wback s).iset = s.iset := by
  rw [transferred_eq]

@[simp] theorem transferred_itstate (f : Fields) (wback : Bool) (s : State) :
    (transferred f wback s).itstate = s.itstate := by
  rw [transferred_eq]

/-! ### Alike up to the advance -/

section
variable {f : Fields} {instr : Word} {wback : Bool} {s s' : State} {g : State → State}

theorem advance_congr (hpc : s'.pc = s.pc) (hit : ∀ v, itAdvance (s'.withPc v) = g (itAdvance (s.withPc v))) :
    advance s' = mapNext g (advance s) := by
  unfold advance
  rw [hpc, hit, apply_ite (mapNext g)]
  rfl

/-- Where the store's checks answer alike, the transfer ends as its advance does. -/
theorem stcTransfer_congr (henv : EnvAlike s s') (haddr : storeAddr f s' = storeAddr f s) (hpc : s'.pc = s.pc)
    (htouch : touchesProgram s' (storeAddr f s) = touchesProgram s (storeAddr f s))
    (hadvance : advance (transferred f wback s') = mapNext g (advance (transferred f wback s))) :
    stcTransfer f instr wback s' = mapNext g (stcTransfer f instr wback s) := by
  have hm : memAborts s' (storeAddr f s') 4 = memAborts s (storeAddr f s) 4 := by rw [haddr, henv.aborts]
  have ht : touchesProgram s' (storeAddr f s') = touchesProgram s (storeAddr f s) := by rw [haddr, htouch]
  by_cases haligned : (storeAddr f s).toNat % 4 = 0
  · have haligned' : (storeAddr f s').toNat % 4 = 0 := haddr ▸ haligned
    cases hadmit : memAborts s (storeAddr f s) 4 with
    | true =>
      rw [stcTransfer_of_memAborts _ _ haligned hadmit, stcTransfer_of_memAborts _ _ haligned' (hm.trans hadmit),
        haddr, hpc]
      rfl
    | false =>
      cases hclear : touchesProgram s (storeAddr f s) with
      | true =>
        rw [stcTransfer_of_touchesProgram _ _ haligned hadmit hclear,
          stcTransfer_of_touchesProgram _ _ haligned' (hm.trans hadmit) (ht.trans hclear)]
        rfl
      | false =>
        rw [stcTransfer_of_admitted haligned hadmit hclear,
          stcTransfer_of_admitted haligned' (hm.trans hadmit) (ht.trans hclear), hadvance]
  · rw [stcTransfer_of_misaligned _ _ haligned, stcTransfer_of_misaligned _ _ (haddr ▸ haligned), haddr, hpc]
    rfl

/-- Where permission and trap answer alike, the access ends as its transfer does. -/
theorem stcAccess_congr (hperm : sysRegPermitted s' = sysRegPermitted s) (htrap : hypTrapped s' = hypTrapped s)
    (hpc : s'.pc = s.pc)
    (htransfer : stcTransfer f instr wback s' = mapNext g (stcTransfer f instr wback s)) :
    stcAccess f instr wback s' = mapNext g (stcAccess f instr wback s) := by
  unfold stcAccess raise
  rw [hperm, htrap, hpc, htransfer]
  split
  · rfl
  · split <;> rfl

end

/-! ### Other flags -/

section
variable {n z c v : Bool} {s : State}

theorem advance_withFlags (s : State) :
    advance (withFlags n z c v s) = mapNext (withFlags n z c v) (advance s) := by
  refine advance_congr rfl fun a => ?_
  cases s with | mk x pc iset =>
  cases iset <;> rfl

theorem hypTrapped_withFlags (henv : EnvAlike s (withFlags n z c v s)) :
    hypTrapped (withFlags n z c v s) = hypTrapped s := by
  unfold hypTrapped
  rw [henv.permitted, henv.debug]
  rfl

variable (f : Fields) (instr : Word)

theorem stcAccess_withFlags (wback : Bool) (henv : EnvAlike s (withFlags n z c v s)) :
    stcAccess f instr wback (withFlags n z c v s) = mapNext (withFlags n z c v) (stcAccess f instr wback s) := by
  refine stcAccess_congr henv.permitted (hypTrapped_withFlags henv) rfl (stcTransfer_congr henv rfl rfl rfl ?_)
  rw [transferred_withFlags, advance_withFlags]

theorem stcUnpredictable_withFlags (henv : EnvAlike s (withFlags n z c v s)) :
    stcUnpredictable f instr (withFlags n z c v s) = mapNext (withFlags n z c v) (stcUnpredictable f instr s) := by
  have hcu : (withFlags n z c v s).params.cuStcPc = s.params.cuStcPc := rfl
  have hiset : (withFlags n z c v s).iset = s.iset := rfl
  unfold stcUnpredictable
  rw [hcu, hiset, advance_withFlags, stcAccess_withFlags f instr false henv]
  split <;> rfl

theorem stcPassed_withFlags (henv : EnvAlike s (withFlags n z c v s)) :
    stcPassed f instr (withFlags n z c v s) = mapNext (withFlags n z c v) (stcPassed f instr s) := by
  have hun : isUnpredictable f (withFlags n z c v s) = isUnpredictable f s := rfl
  unfold stcPassed
  rw [hun, stcUnpredictable_withFlags f instr henv, stcAccess_withFlags f instr f.w henv]
  split
  · rfl
  · split <;> rfl

theorem stcPeculiar_withFlags (henv : EnvAlike s (withFlags n z c v s)) :
    stcPeculiar f (withFlags n z c v s) = stcPeculiar f s := by
  unfold stcPeculiar
  rw [hypTrapped_withFlags henv, henv.permitted]
  rfl

theorem stcFailed_withFlags (henv : EnvAlike s (withFlags n z c v s)) :
    stcFailed f instr (withFlags n z c v s) = mapNext (withFlags n z c v) (stcFailed f instr s) := by
  have hpolicy : (withFlags n z c v s).params.condFailPolicy = s.params.condFailPolicy := rfl
  have hdraws : (withFlags n z c v s).draws = s.draws := rfl
  have hwithDraws (d : Nat) : (withFlags n z c v s).withDraws d = withFlags n z c v (s.withDraws d) := rfl
  have hdrawn (d : Nat) : EnvAlike (s.withDraws d) (withFlags n z c v (s.withDraws d)) :=
    ⟨henv.permitted, henv.debug, henv.aborts⟩
  unfold stcFailed
  rw [stcPeculiar_withFlags f henv, hpolicy, hdraws, hwithDraws, stcPassed_withFlags f instr (hdrawn _),
    advance_withFlags, advance_withFlags]
  split
  · split
    · rfl
    · split <;> rfl
  · rfl

end

/-- Settles O38: with the condition check alike, each path of the instruction commutes with `withFlags`. -/
theorem flagsActOnlyThroughTheCondition : Obligations.FlagsActOnlyThroughTheCondition := by
  intro i s n z c v s' hcond hperm hdebug haborts
  have henv : EnvAlike s (withFlags n z c v s) := ⟨hperm, hdebug, haborts⟩
  cases hpass : conditionPassed (fieldsOf i).cond s with
  | true =>
    rw [exec_of_passed hpass, exec_of_passed (hcond.trans hpass)]
    exact stcPassed_withFlags _ _ henv
  | false =>
    rw [exec_of_failed hpass, exec_of_failed (hcond.trans hpass)]
    exact stcFailed_withFlags _ _ henv

/-! ### T1 and A1 -/

theorem fieldsOf_a1Twin (i : Instr) : fieldsOf (a1Twin i) = fieldsOf i := by
  cases i <;> rfl

theorem isStc_a1Twin (i : Instr) : isStc (a1Twin i) = isStc i := by
  cases i <;> rfl

/-- A T1 word has 1110 in the place of cond (30_encoding.md R82). -/
theorem encode_a1Twin (i : Instr) : encode (a1Twin i) = encode i := by
  cases i <;> rfl

theorem cond_of_t32 {i : Instr} (h : i.iset = .t32) : (fieldsOf i).cond = .al := by
  cases i <;> cases h <;> rfl

/-- The state back in T32, with ITSTATE as given. -/
def toT32 (it : BitVec 8) (s : State) : State :=
  { s with iset := .t32, itstate := it }

/-- The advance in T32 is that in A32 with the ITSTATE of 10_state.md R34. -/
theorem advance_of_t32 {s : State} (h : s.iset = .t32) :
    advance s = mapNext (toT32 (nextItstate s.itstate)) (advance (withIset .a32 s)) := by
  refine advance_congr rfl fun a => ?_
  rw [← itAdvanced_eq]
  cases s with | mk x pc iset =>
  cases h
  rfl

/-- The access of a T32 state ends as that of the same state made A32. -/
theorem stcAccess_of_t32 {s : State} (h : s.iset = .t32) (henv : EnvAlike (withIset .a32 s) s) (f : Fields)
    (instr : Word) (wback : Bool) :
    stcAccess f instr wback s = mapNext (toT32 (nextItstate s.itstate)) (stcAccess f instr wback (withIset .a32 s)) := by
  have htrap : hypTrapped s = hypTrapped (withIset .a32 s) := by
    unfold hypTrapped
    rw [henv.permitted, henv.debug]
    rfl
  refine stcAccess_congr henv.permitted htrap rfl (stcTransfer_congr henv rfl rfl rfl ?_)
  rw [transferred_withIset, advance_of_t32 (by simpa using h), transferred_itstate]

/-- Settles O41: both encodings are UNDEFINED, or both come to their access with the same fields and word. -/
theorem t1BehavesAsA1 : Obligations.T1BehavesAsA1 := by
  intro i s s' hi hbase hiset hpass hperm hdebug haborts
  have henv : EnvAlike (withIset .a32 s) s := ⟨hperm.symm, hdebug.symm, fun a => (haborts a).symm⟩
  have hpassT1 : conditionPassed (fieldsOf i).cond s = true := by rwa [cond_of_t32 hi]
  have hpassA1 : conditionPassed (fieldsOf (a1Twin i)).cond (withIset .a32 s) = true := by
    rw [fieldsOf_a1Twin, cond_of_t32 hi]
    rfl
  change exec i s = mapNext (toT32 (nextItstate s.itstate)) (exec (a1Twin i) (withIset .a32 s))
  cases hstc : isStc i with
  | false =>
    rw [exec_of_undefined hpassT1 hstc, exec_of_undefined hpassA1 ((isStc_a1Twin i).trans hstc), encode_a1Twin]
    rfl
  | true =>
    rw [exec_of_executes (executes_of_ne hstc hpassT1 hbase),
      exec_of_executes (executes_of_ne ((isStc_a1Twin i).trans hstc) hpassA1 (by rwa [fieldsOf_a1Twin])),
      fieldsOf_a1Twin, encode_a1Twin, not_isUnpredictable_of_ne hbase, not_isUnpredictable_of_ne hbase]
    exact stcAccess_of_t32 hiset henv _ _ _

end Sys2Proof.Safety
end

section
/-! PROOFS. The Unindexed encodings (40_stc.md R139): the word of an instruction goes into the record of its fault and
nowhere else, and the field `imm8` into no operand. -/

namespace Sys2Proof.Safety

open Sys2Proof.Machine

/-! ### The instruction word is only recorded -/

section
variable (f : Fields) (instr w : Word) (wback : Bool) (s : State)

theorem mapInstr_advance : mapInstr w (advance s) = advance s := by
  unfold advance
  split <;> rfl

theorem mapInstr_stcTransfer : mapInstr w (stcTransfer f instr wback s) = stcTransfer f w wback s := by
  unfold stcTransfer memWrite
  split
  · rfl
  · split
    · rfl
    · split
      · rfl
      · exact mapInstr_advance w _

theorem mapInstr_stcAccess : mapInstr w (stcAccess f instr wback s) = stcAccess f w wback s := by
  unfold stcAccess
  split
  · rfl
  · split
    · rfl
    · exact mapInstr_stcTransfer f instr w wback s

theorem mapInstr_stcUnpredictable : mapInstr w (stcUnpredictable f instr s) = stcUnpredictable f w s := by
  unfold stcUnpredictable
  split
  · rfl
  · exact mapInstr_advance w s
  · exact mapInstr_stcAccess f instr w false s
  all_goals rfl

theorem mapInstr_stcPassed : mapInstr w (stcPassed f instr s) = stcPassed f w s := by
  unfold stcPassed
  split
  · rfl
  · split
    · exact mapInstr_stcUnpredictable f instr w s
    · exact mapInstr_stcAccess f instr w f.w s

theorem mapInstr_stcFailed : mapInstr w (stcFailed f instr s) = stcFailed f w s := by
  unfold stcFailed
  split
  · split
    · exact mapInstr_advance w s
    · split
      · exact mapInstr_stcPassed f instr w _
      · exact mapInstr_advance w _
  · exact mapInstr_advance w s

/-- What an instruction does but for the word its fault records. -/
theorem mapInstr_exec (i : Instr) : mapInstr w (exec i s) = stc (fieldsOf i) w s := by
  rw [exec_eq_stc]
  unfold stc
  split
  · exact mapInstr_stcPassed _ _ w s
  · exact mapInstr_stcFailed _ _ w s

end

/-! ### The field imm8 -/

/-- Without index and writeback the offset is used for nothing (40_stc.md R128, R132). -/
theorem stcAccess_unindexed (cond : Cond) (u : Bool) (rn : RegNum) (o o' : Byte) (instr : Word) (s : State) :
    stcAccess ⟨cond, false, u, false, rn, o⟩ instr false s = stcAccess ⟨cond, false, u, false, rn, o'⟩ instr false s :=
  rfl

theorem stcPassed_unindexed (cond : Cond) (u : Bool) (rn : RegNum) (o o' : Byte) (instr : Word) (s : State) :
    stcPassed ⟨cond, false, u, false, rn, o⟩ instr s = stcPassed ⟨cond, false, u, false, rn, o'⟩ instr s := by
  unfold stcPassed stcUnpredictable
  rw [stcAccess_unindexed cond u rn o o']
  rfl

theorem stc_unindexed (cond : Cond) (u : Bool) (rn : RegNum) (o o' : Byte) (instr : Word) (s : State) :
    stc ⟨cond, false, u, false, rn, o⟩ instr s = stc ⟨cond, false, u, false, rn, o'⟩ instr s := by
  unfold stc stcFailed
  rw [stcPassed_unindexed cond u rn o o', stcPassed_unindexed cond u rn o o']
  rfl

/-- Settles O40: the outcome depends on the word only in its record, and not on `imm8`; the word keeps the field. -/
theorem unindexedIgnoresImm8 : Obligations.UnindexedIgnoresImm8 := by
  intro cond rn o o' s w
  refine ⟨?_, ?_, wordImm8_packWord .., wordImm8_packWord .., rfl, rfl⟩
  · rw [mapInstr_exec, mapInstr_exec]
    exact stc_unindexed cond true rn o o' w s
  · rw [mapInstr_exec, mapInstr_exec]
    exact stc_unindexed .al true rn o o' w s

end Sys2Proof.Safety
end

section
/-! PROOFS. The exceptions: which faults an instruction raises and what each records (60_exceptions.md R160, R164), and
the host's move (R175). -/

namespace Sys2Proof.Safety

open Sys2Proof.Machine

/-- Settles O34: the faults of the condition passed; the count of free values is in neither `pc` nor the address. -/
theorem faultsRecordTheInstruction : Obligations.FaultsRecordTheInstruction := by
  intro i s f h
  obtain ⟨d, hpassed⟩ := exec_eq_fault h
  refine (stcPassed_eq_fault hpassed).imp_right fun ⟨hundef, hfault⟩ => ?_
  have hstc : isStc i = true := by simpa [isUndefined_fieldsOf] using hundef
  rcases hfault with ⟨htrap, -⟩ | ⟨kind, habort⟩
  · exact .inl ⟨hstc, htrap⟩
  · exact .inr ⟨hstc, kind, habort⟩

/-- The host's turn in a state from which an agent moves. -/
theorem step_of_hostWrite {s : State} {v : Word} (hhalted : halted s = none) (hturn : nextTurn s = .hostWrite v) :
    step s = .next (hostWrite v (takeTurn s)) := by
  simp [step, hhalted, hturn]

/-- Settles O45: the move is `hostWrite` on the state with its turn taken, which writes those three fields. -/
theorem hostWriteIsTheHostsMove : Obligations.HostWriteIsTheHostsMove := by
  intro s v hf hr hpc hturn
  exact step_of_hostWrite (halted_eq_none.2 ⟨hf, hr, hpc⟩) hturn

end Sys2Proof.Safety
end

section
/-! PROOFS. The launch (70_reset_and_hazards.md R191, R194): what the launch premises give, that a launch of one word
meets them, and that the PE then runs that word; then the state the model calls reset. -/

namespace Sys2Proof.Safety

open Sys2Proof.Machine

/-! ### What the launch premises give -/

section
variable {s : State}

theorem LaunchOk.stateInv (h : LaunchOk s) (hwf : s.mem.wf = true) : StateInv s := by
  obtain ⟨-, -, -, ha, -, hit, -⟩ := h
  exact ⟨hwf, ha, hit⟩

/-- A launch stands at the program's first word, or at its end where the program is empty. -/
theorem LaunchOk.onProgram (h : LaunchOk s) : OnProgram s := by
  obtain ⟨-, -, hpc, ha, hspace, -⟩ := h
  have hend : s.base.toNat ≤ s.progEnd := Nat.le_add_right ..
  exact ⟨ha, by rw [hpc], by rwa [hpc], by simp [hpc], hspace⟩

/-- A launch of a program that is not empty executes, where the turn is the PE's. -/
theorem LaunchOk.peReady (h : LaunchOk s) (hprog : s.program ≠ []) (hturn : nextTurn s = .pe) : PeReady s := by
  obtain ⟨hf, hr, hpc, ha, -, -, hl⟩ := h
  have hlen := List.length_pos_of_ne_nil hprog
  have hend : s.progEnd = s.base.toNat + 4 * s.program.length := rfl
  exact ⟨hf, hr, by rw [hpc]; omega, hturn, ha, hl⟩

end

/-! ### The launch of one table word -/

/-- A table word is read as its word is decoded in the table's instruction set (log 9). -/
theorem decodeTableWord_eq_some {nbits w : Nat} {i : Instr} (h : decodeTableWord nbits w = some i) :
    decodeWord (tableISet (BitVec.ofNat 32 w)) (BitVec.ofNat 32 w) = some i := by
  unfold decodeTableWord at h
  split at h
  · dsimp only at h
    rw [← List.append_nil (wordToBytes _ _), decodeBytes_wordToBytes] at h
    generalize decodeWord _ _ = d at h ⊢
    cases d with
    | none => cases h
    | some j => exact h
  · cases h

theorem withFetchWord_32 (s : State) (w : Nat) : s.withFetchWord 32 w = launchWord s (BitVec.ofNat 32 w) := by
  have hmod : BitVec.ofNat 32 (w % 2 ^ 32) = BitVec.ofNat 32 w := BitVec.eq_of_toNat_eq (by simp)
  rw [State.withFetchWord, hmod]

/-- The PE's turn comes first after a launch (log 8). -/
theorem nextTurn_launchWord (s : State) (w : Word) : nextTurn (launchWord s w) = .pe := by
  unfold nextTurn launchWord peFirst
  rcases s.schedule with - | ⟨- | v, rest⟩ <;> rfl

theorem launchWord_launchOk {s : State} (w : Word) (hpc : s.pc.toNat % 4 = 0) (hit : s.itstate = 0#8) :
    LaunchOk (launchWord s w) := by
  have haligned : PcAligned (launchWord s w) := ⟨fun _ => hpc, fun _ => show s.pc.toNat % 2 = 0 by omega⟩
  have hspace : s.pc.toNat + 4 ≤ 2 ^ 32 := by
    have := s.pc.isLt
    omega
  exact ⟨rfl, rfl, rfl, haligned, hspace, fun _ => hit, by simp [launchITSTATEBad, launchWord, hit]⟩

/-- The launched word stands at `pc`, laid out for its instruction set (20_memory.md R55, R59). -/
theorem programBytes_launchWord (s : State) (w : Word) :
    programBytes (launchWord s w) s.pc.toNat 4 = wordToBytes (tableISet w) w :=
  programWordStandsAtItsAddress (launchWord s w) 0 Nat.one_pos

/-- Settles O44: the launched state is ready, and the word at its `pc` is the encoding of `i`. -/
theorem launchedWordRunsNext : Obligations.LaunchedWordRunsNext := by
  intro s w i hdecode hpc hit
  rw [withFetchWord_32]
  obtain ⟨hencode, hwf, hset⟩ := encodeOfDecodedWord _ _ _ (decodeTableWord_eq_some hdecode)
  have hready := (launchWord_launchOk (BitVec.ofNat 32 w) hpc hit).peReady (List.cons_ne_nil _ _)
    (nextTurn_launchWord ..)
  refine stepRunsTheInstructionAtPc _ i hready hwf hset ?_
  rw [hencode, hset]
  exact programBytes_launchWord ..

/-! ### Reset -/

/-- The model's reset is a launch of the empty program (log 6). -/
theorem reset_launchOk : LaunchOk State.reset := by
  unfold LaunchOk PcAligned
  decide

/-- Settles O49: reset meets the launch premises, and its memory is empty. -/
theorem invariantAtReset : Obligations.InvariantAtReset :=
  ⟨reset_launchOk.stateInv rfl, reset_launchOk.onProgram, reset_launchOk⟩

end Sys2Proof.Safety
end
